-- ==== Sys2Proof/Word.lean ====
section
/-! DEFINITION. The words of `hash_block` (00_scope.md R7, R11): 32-bit unsigned words, bit 0 the least
significant, and the 8-bit word address the bus carries (20_memory.md R54). -/

namespace Sys2Proof

/-- A 32-bit unsigned word (R7 `XLEN`); its arithmetic is modulo 2^32 (R12). -/
abbrev Word := BitVec 32

/-- A byte, or one lane of a bus word (R17, R60). -/
abbrev Byte := BitVec 8

/-- What the bus carries of a byte offset: `off[9:2]` (R54), so a misaligned offset or one above 0x3FC
cannot be written down. -/
abbrev WordAddr := BitVec 8

end Sys2Proof
end

