-- ==== Sys2Proof/Config.lean ====
section
/-! DEFINITION. What is fixed for the machine: the three cores and their lengths (00_scope.md R7, R15), the
open parameters of R8, and the free value `draw()` (R14, R31). An open value is `opaque` without a body, so
no proof can see which value it has. -/

namespace Sys2Proof

/-- The three compression cores (R15: U = 1, 2, 3). ROT32, unit 0, is no agent and is never busy (R262). -/
inductive CoreId where
  | md5
  | sha1
  | sha256
deriving DecidableEq, Repr, Inhabited

/-- The unit code U of a core (R15, R82). -/
def CoreId.unit : CoreId → Nat
  | .md5 => 1
  | .sha1 => 2
  | .sha256 => 3

/-- `N_U`, the number of 32-bit words in a core's state vector (R7, R30). -/
def stateLen : CoreId → Nat
  | .md5 => 4
  | .sha1 => 5
  | .sha256 => 8

/-- Whether reset is synchronous or asynchronous at signal level (R8 `RESET_KIND`, R280). -/
inductive ResetKind where
  | synchronous
  | asynchronous
deriving DecidableEq, Repr, Inhabited

/-- FREE VALUE. The n-th `draw()` of a run: what a read of `H_U` returns while `BUSY_U` = 1 (R31, D30).
Nothing constrains it. Log entry 1. -/
opaque Config.draw : Nat → Word

/-- OPEN PARAMETER `HB_BASE`: the platform's address of the window (R8, R52). Offsets are relative to it and no
rule depends on it. Log entry 8. -/
opaque Config.hbBase : Nat

/-- What passes between host and hardware in a transaction (20_memory.md R50). -/
inductive BusTransfer where
  /-- A write of a word. -/
  | write (a : WordAddr) (v : Word)
  /-- A read, with the word returned. -/
  | read (a : WordAddr) (v : Word)
  /-- Reset. -/
  | reset
deriving DecidableEq, Repr

/-- OPEN PARAMETER `BUS_PROTOCOL`: how a transaction is carried on pins, and in how many clock cycles (R8, 20_memory.md
R50): one list of pin levels a cycle. A transaction of the model is one whole step, and no rule depends on this. Log
entry 8. -/
opaque Config.busProtocol : BusTransfer → List (List Bool)

/-- OPEN PARAMETER: how far a core's latency exceeds the one cycle it takes at least (R8, R283). -/
opaque Config.latencyOverOne : CoreId → Nat

/-- OPEN PARAMETERS `LAT_MD5`, `LAT_SHA1`, `LAT_SHA256`, in clock cycles: finite and at least 1 (R8, R283). The
model has no clock; which step completes a COMPRESS is the schedule's choice (log entry 3). -/
def Config.latency (u : CoreId) : Nat := Config.latencyOverOne u + 1

/-- OPEN PARAMETER `RESET_KIND` (R8); it has no architectural effect (R280). Log entry 8. -/
opaque Config.resetKind : ResetKind

end Sys2Proof
end

