-- ==== Sys2Proof/Machine/Primitives.lean ====
section
/-! DEFINITION. The word primitives (40_word_primitives.md R100 to R103) and the conversions between bytes and
words (00_scope.md R13, 20_memory.md R60, R61). -/

namespace Sys2Proof

/-- Rotate left by n in 0..31 (R100). -/
def rotl32 (x : Word) (n : Nat) : Word :=
  if n = 0 then x else (x <<< n) ||| (x >>> (32 - n))

/-- Rotate right by n in 0..31 (R101). -/
def rotr32 (x : Word) (n : Nat) : Word :=
  if n = 0 then x else (x >>> n) ||| (x <<< (32 - n))

/-- Logical shift right by n in 0..31; the vacated top bits are 0 (R102). -/
def shr32 (x : Word) (n : Nat) : Word := x >>> n

/-- Addition modulo 2^32; the carry out of bit 31 is lost (R103). -/
def add32 (a b : Word) : Word := a + b

/-- The little-endian word whose least significant byte is b0 (R13). -/
def wordLe (b0 b1 b2 b3 : Byte) : Word := (b3 ++ b2 ++ b1 ++ b0 : BitVec (8 + 8 + 8 + 8))

/-- The big-endian word whose most significant byte is b0 (R13). -/
def wordBe (b0 b1 b2 b3 : Byte) : Word := (b0 ++ b1 ++ b2 ++ b3 : BitVec (8 + 8 + 8 + 8))

/-- Lane j of a bus word, its bits [8j+7:8j] (R60). -/
def lane (w : Word) (j : Nat) : Byte := w.extractLsb' (8 * j) 8

/-- The bytes of a word, least significant first: lane 0 to lane 3 (R13). -/
def bytesLe (w : Word) : List Byte := [lane w 0, lane w 1, lane w 2, lane w 3]

/-- The bytes of a word, most significant first (R13). -/
def bytesBe (w : Word) : List Byte := [lane w 3, lane w 2, lane w 1, lane w 0]

/-- `bswap32(w) = word_be(bytes_le(w))` (R61). -/
def bswap32 (w : Word) : Word := wordBe (lane w 0) (lane w 1) (lane w 2) (lane w 3)

end Sys2Proof
end

