-- ==== Sys2Proof/Syntax.lean ====
section
/-! DEFINITION. The commands of `hash_block`: one constructor per row of the opcode map (30_encoding.md R87,
spec/opcode_table.json). The only operand a command word carries is the rotate amount AMT (R84); every other
operand is a named register fixed by the command. -/

namespace Sys2Proof

/-- A command of the CMD register (R83). -/
inductive Instr where
  /-- `ROTL n` (R105). -/
  | rotl (n : Nat)
  /-- `ROTR n` (R106). -/
  | rotr (n : Nat)
  /-- `ADD` (R107). -/
  | add
  /-- `MD5.INIT` (R140). -/
  | md5Init
  /-- `MD5.COMPRESS` (R141). -/
  | md5Compress
  /-- `SHA1.INIT` (R170). -/
  | sha1Init
  /-- `SHA1.COMPRESS` (R171). -/
  | sha1Compress
  /-- `SHA256.INIT` (R200). -/
  | sha256Init
  /-- `SHA256.COMPRESS` (R201). -/
  | sha256Compress
deriving DecidableEq, Repr

end Sys2Proof
end

