-- ==== Sys2Proof/WellFormed.lean ====
section
/-! DEFINITION. Which commands the encoding can spell: a rotate amount is the 5-bit field AMT, so it is at most
31 (30_encoding.md R84). No other command has an operand. -/

namespace Sys2Proof

/-- A command that some word spells (R84: "Amounts 32 and above cannot be encoded"). -/
def Instr.wellFormed : Instr → Bool
  | .rotl n => n < 32
  | .rotr n => n < 32
  | .add => true
  | .md5Init => true
  | .md5Compress => true
  | .sha1Init => true
  | .sha1Compress => true
  | .sha256Init => true
  | .sha256Compress => true

end Sys2Proof
end

