-- ==== Sys2Proof/Decode.lean ====
section
/-! DEFINITION. The command word (30_encoding.md R80 to R89): its one format CMD32, the decoder, total on every
word and on every list of bytes and refusing by name, and the encoder. The opcode map of R87 stands beside them
as data. -/

namespace Sys2Proof

/-- Why a word is not legal (R85, R88), and the decoder's own `truncated` for fewer than four bytes. The hardware
records the one cause ILLEGAL_CMD for every illegal word (R250); the names are the decoder's. -/
inductive DecodeError where
  | reservedUnit
  | reservedOp
  | reservedBits
  | amountNotZero
  | truncated
deriving DecidableEq, Repr

/-- UNIT, bits [31:28] (R81). -/
def unitField (v : Word) : BitVec 4 := v.extractLsb' 28 4

/-- OP, bits [27:24] (R81). -/
def opField (v : Word) : BitVec 4 := v.extractLsb' 24 4

/-- RSV, bits [23:5], which must be 0 (R81). -/
def rsvField (v : Word) : BitVec 19 := v.extractLsb' 5 19

/-- AMT, bits [4:0] (R81). -/
def amtField (v : Word) : BitVec 5 := v.extractLsb' 0 5

/-- A command other than a rotate is legal only with AMT = 0 (R84, R85). -/
def withoutAmount (n : Nat) (i : Instr) : Except DecodeError Instr :=
  if n = 0 then .ok i else .error .amountNotZero

/-- OP within UNIT (R83), with the amount of R84. -/
def decodeUnitOp (unit op n : Nat) : Except DecodeError Instr :=
  match unit, op with
  | 0, 0 => .ok (.rotl n)
  | 0, 1 => .ok (.rotr n)
  | 0, 2 => withoutAmount n .add
  | 1, 0 => withoutAmount n .md5Init
  | 1, 1 => withoutAmount n .md5Compress
  | 2, 0 => withoutAmount n .sha1Init
  | 2, 1 => withoutAmount n .sha1Compress
  | 3, 0 => withoutAmount n .sha256Init
  | 3, 1 => withoutAmount n .sha256Compress
  | u, _ => .error (if u < 4 then .reservedOp else .reservedUnit)

/-- The command a word spells, or why it spells none (R85, R86). -/
def decode (v : Word) : Except DecodeError Instr :=
  if rsvField v = 0 then
    decodeUnitOp (unitField v).toNat (opField v).toNat (amtField v).toNat
  else .error .reservedBits

/-- The first command of a list of bytes, carried as the lanes of a bus word (R60), with the bytes after it. -/
def decodeBytes : List Byte → Except DecodeError (Instr × List Byte)
  | b0 :: b1 :: b2 :: b3 :: rest =>
    match decode (wordLe b0 b1 b2 b3) with
    | .ok i => .ok (i, rest)
    | .error e => .error e
  | _ => .error .truncated

/-- What the decoder reads from a word of the opcode table's numbering; a command is one 32-bit word (R89). -/
def decodeTableWord (nbits w : Nat) : Option Instr :=
  if nbits ≤ 32 then
    match decodeBytes (bytesLe (BitVec.ofNat 32 (w % 2 ^ nbits))) with
    | .ok (i, _) => some i
    | .error _ => none
  else none

/-- A word put together from the fields of CMD32, RSV = 0 (R81). -/
def cmd32 (unit op amt : Nat) : Word :=
  (BitVec.ofNat 4 unit ++ BitVec.ofNat 4 op ++ 0#19 ++ BitVec.ofNat 5 amt : BitVec (4 + 4 + 19 + 5))

/-- The word of a command (R83, R84). -/
def encode : Instr → Word
  | .rotl n => cmd32 0 0 n
  | .rotr n => cmd32 0 1 n
  | .add => cmd32 0 2 0
  | .md5Init => cmd32 1 0 0
  | .md5Compress => cmd32 1 1 0
  | .sha1Init => cmd32 2 0 0
  | .sha1Compress => cmd32 2 1 0
  | .sha256Init => cmd32 3 0 0
  | .sha256Compress => cmd32 3 1 0

/-- A row of the opcode map: a word matches when `(v & mask) == pattern` (R87). -/
structure OpcodeRow where
  mnemonic : String
  pattern : Word
  mask : Word
deriving DecidableEq, Repr

/-- The complete opcode map (R87). -/
def opcodeMap : List OpcodeRow :=
  [⟨"ROTL", 0x00000000, 0xFFFFFFE0⟩, ⟨"ROTR", 0x01000000, 0xFFFFFFE0⟩, ⟨"ADD", 0x02000000, 0xFFFFFFFF⟩,
   ⟨"MD5.INIT", 0x10000000, 0xFFFFFFFF⟩, ⟨"MD5.COMPRESS", 0x11000000, 0xFFFFFFFF⟩,
   ⟨"SHA1.INIT", 0x20000000, 0xFFFFFFFF⟩, ⟨"SHA1.COMPRESS", 0x21000000, 0xFFFFFFFF⟩,
   ⟨"SHA256.INIT", 0x30000000, 0xFFFFFFFF⟩, ⟨"SHA256.COMPRESS", 0x31000000, 0xFFFFFFFF⟩]

/-- The row's condition (R87). -/
def OpcodeRow.hits (r : OpcodeRow) (v : Word) : Bool := v &&& r.mask == r.pattern

/-- The spec's own test of legality, field by field (R85). -/
def legal (v : Word) : Bool :=
  v.extractLsb' 5 19 == 0#19 &&
    ((v.extractLsb' 28 4 == 0#4 && (v.extractLsb' 24 4 == 0#4 || v.extractLsb' 24 4 == 1#4)) ||
     (v.extractLsb' 28 4 == 0#4 && v.extractLsb' 24 4 == 2#4 && v.extractLsb' 0 5 == 0#5) ||
     ((v.extractLsb' 28 4 == 1#4 || v.extractLsb' 28 4 == 2#4 || v.extractLsb' 28 4 == 3#4) &&
      (v.extractLsb' 24 4 == 0#4 || v.extractLsb' 24 4 == 1#4) && v.extractLsb' 0 5 == 0#5))

end Sys2Proof
end

