-- ==== Sys2Proof/Machine/State.lean ====
section
/-! DEFINITION. The state of the machine. `Hw` is the complete architectural state of `hash_block`
(10_state.md R20: "Nothing else is state"). Around it stand the model's own fields, for what acts on the hardware
from outside: the host's remaining transactions, the order in which the agents move, the values the host has read,
and the counter of the free values. -/

namespace Sys2Proof.Machine

/-- The registers of one core with a state vector of n words (R30, R32, R36, R41). A compression in flight is
represented by `busy` alone (R42). -/
structure CoreRegs (n : Nat) where
  /-- `H_U[0..n-1]`, numeric words (R30, R62). -/
  h : Vector Word n
  /-- `BLK_U[0..15]`; lane j of word k is block byte 4k+j (R32). -/
  blk : Vector Word 16
  /-- `BUSY_U`: an accepted COMPRESS has not completed (R36). -/
  busy : Bool
deriving DecidableEq, Repr

/-- The complete architectural state of `hash_block` (R20). CMD stores nothing. -/
structure Hw where
  /-- `ROT_A` (R24). -/
  rotA : Word
  /-- `ROT_B` (R25). -/
  rotB : Word
  /-- `ROT_RES` (R26). -/
  rotRes : Word
  /-- `H_MD5`, `BLK_MD5`, `BUSY_MD5`. -/
  md5 : CoreRegs 4
  /-- `H_SHA1`, `BLK_SHA1`, `BUSY_SHA1`. -/
  sha1 : CoreRegs 5
  /-- `H_SHA256`, `BLK_SHA256`, `BUSY_SHA256`. -/
  sha256 : CoreRegs 8
  /-- `STATUS.ERR` (R38). -/
  err : Bool
  /-- `STATUS.ECAUSE` (R39). -/
  ecause : BitVec 4
deriving DecidableEq, Repr

/-- The error causes (60_exceptions.md R250; NONE is `err = false`). -/
inductive ErrorCause where
  | illegalCmd
  | cmdWhileBusy
  | writeWhileBusy
  | badWrite
deriving DecidableEq, Repr

/-- What an offset of the window names (20_memory.md R56). -/
inductive Target where
  | cmd
  | status
  | rotA
  | rotB
  | rotRes
  | blk (u : CoreId) (k : Nat)
  | h (u : CoreId) (i : Nat)
  | unmapped
deriving DecidableEq, Repr

/-- The host's three transactions (20_memory.md R50). -/
inductive Transaction where
  /-- `BusWrite(off, v)`. -/
  | write (a : WordAddr) (v : Word)
  /-- `BusRead(off)`. -/
  | read (a : WordAddr)
  /-- `Reset`. -/
  | reset
deriving DecidableEq, Repr

/-- What the host does next (30_encoding.md R91). -/
inductive HostOp where
  /-- One transaction. -/
  | issue (t : Transaction)
  /-- `WAITCLR off, mask`: `RD off` repeated until `(value & mask) == 0`. -/
  | waitClr (a : WordAddr) (mask : Word)
deriving DecidableEq, Repr

/-- Who moves in a step: the host, or a core in its completion step (20_memory.md R51, R66; 60_exceptions.md R262).
ROT32 is no agent. -/
inductive Agent where
  | host
  | core (u : CoreId)
deriving DecidableEq, Repr

/-- The hardware, and what stands around it. -/
structure State where
  /-- The architectural state (R20). -/
  hw : Hw
  /-- The model's own: what the host has still to do, next first (R23, R90). -/
  program : List HostOp
  /-- The model's own: whose turn each following step is (R66, R283). Log entry 3. -/
  schedule : List Agent
  /-- The model's own: the values the host's reads returned, oldest first (R287). -/
  reads : List Word
  /-- The model's own: how many `draw()`s have been made (R31). Log entry 1. -/
  draws : Nat
deriving DecidableEq, Repr

/-- No fault: the hardware has no trap and nothing stops it. An error is recorded in STATUS and the machine goes on
(60_exceptions.md R252, R256), so the model raises none; no claim is made safe or unsafe by it. -/
inductive Fault where
deriving DecidableEq, Repr

/-- Why a command has no meaning in the model. -/
inductive Refusal where
  /-- Raised by `exec` for a command whose arm has no meaning yet; safe, since the model stops where the hardware
  goes on. No arm raises it. -/
  | notModelled (mnemonic : String)
deriving DecidableEq, Repr

/-- A core after reset: `H_U = IV_U`, `BLK_U` all 0, not busy (R20, R280). -/
def CoreRegs.reset (u : CoreId) : CoreRegs (stateLen u) :=
  { h := iv u, blk := #v[0, 0, 0, 0, 0, 0, 0, 0, 0, 0, 0, 0, 0, 0, 0, 0], busy := false }

/-- Every register at its reset value (R20, R280). -/
def Hw.reset : Hw :=
  { rotA := 0, rotB := 0, rotRes := 0, md5 := CoreRegs.reset .md5, sha1 := CoreRegs.reset .sha1,
    sha256 := CoreRegs.reset .sha256, err := false, ecause := 0 }

/-- The machine right after reset (R280), with no host transaction waiting, no turn fixed, nothing read and no draw
made. The four fields around `hw` are the model's own and their values here are log entry 6. -/
def State.reset : State :=
  { hw := Hw.reset, program := [], schedule := [], reads := [], draws := 0 }

end Sys2Proof.Machine
end

