-- ==== Sys2Proof/Machine/Flags.lean ====
section
/-! DEFINITION. The STATUS register (10_state.md R36, R37) and the cause codes (60_exceptions.md R250). These are
the only flags: no command sets a carry, zero or overflow bit (R40). -/

namespace Sys2Proof.Machine

/-- The 4-bit code ECAUSE holds for a cause (R250). Code 0 is NONE; 5 to 15 are never produced. -/
def ErrorCause.code : ErrorCause → BitVec 4
  | .illegalCmd => 1
  | .cmdWhileBusy => 2
  | .writeWhileBusy => 3
  | .badWrite => 4

/-- The registers of core U (R35). -/
def Hw.core (hw : Hw) : (u : CoreId) → CoreRegs (stateLen u)
  | .md5 => hw.md5
  | .sha1 => hw.sha1
  | .sha256 => hw.sha256

/-- `BUSY_U` (R36). -/
def Hw.busy (hw : Hw) (u : CoreId) : Bool := (hw.core u).busy

/-- What a read of STATUS returns: `zext_32(ECAUSE || 000 || ERR || 00000 || BUSY_SHA256 || BUSY_SHA1 || BUSY_MD5)`
(R37). -/
def statusWord (hw : Hw) : Word :=
  (hw.ecause ++ 0#3 ++ BitVec.ofBool hw.err ++ 0#5 ++ BitVec.ofBool (hw.busy .sha256) ++
    BitVec.ofBool (hw.busy .sha1) ++ BitVec.ofBool (hw.busy .md5)).setWidth 32

end Sys2Proof.Machine
end

