-- ==== Sys2Proof/Machine/Operands.lean ====
section
/-! DEFINITION. Operands: the address decode of the window (20_memory.md R54 to R56), its inverse, and the message
words a core takes from its block buffer (R61). The implicit register operands of a command are named in its
meaning (30_encoding.md R84). -/

namespace Sys2Proof.Machine

/-- The core whose window page is U (R55: the window of core U starts at `U << 8`). -/
def coreOfPage (page : Nat) : Option CoreId :=
  match page with
  | 1 => some .md5
  | 2 => some .sha1
  | 3 => some .sha256
  | _ => none

/-- Words 16 and up of core U's page are `H_U`, words 0 to 15 are `BLK_U` (R56). -/
def coreTarget (u : CoreId) (w : Nat) : Target :=
  if w < 16 then .blk u w else if w < 16 + stateLen u then .h u (w - 16) else .unmapped

/-- Address decode, total on the 256 word addresses (R56). -/
def targetOf (a : WordAddr) : Target :=
  match a.toNat with
  | 0 => .cmd
  | 1 => .status
  | 2 => .rotA
  | 3 => .rotB
  | 4 => .rotRes
  | n =>
    match coreOfPage (n / 64) with
    | some u => coreTarget u (n % 64)
    | none => .unmapped

/-- The word address of a byte offset, where one exists (R54: a multiple of 4, at most 0x3FC). -/
def wordAddrOf (off : Nat) : Option WordAddr :=
  if off % 4 = 0 ∧ off ≤ 0x3FC then some (BitVec.ofNat 8 (off / 4)) else none

/-- The byte offset of a word address (R54). -/
def offsetOf (a : WordAddr) : Nat := 4 * a.toNat

/-- The platform address of a register (R52). -/
def platformAddress (a : WordAddr) : Nat := Config.hbBase + offsetOf a

/-- CMD, offset 0x000 (R55). -/
def cmdAddr : WordAddr := 0

/-- STATUS, offset 0x004 (R55). -/
def statusAddr : WordAddr := 1

/-- `BLK_U[k]`, offset `(U << 8) + 4k` (R55). -/
def blkAddr (u : CoreId) (k : Nat) : WordAddr := BitVec.ofNat 8 (64 * u.unit + k)

/-- `H_U[i]`, offset `(U << 8) + 0x40 + 4i` (R55). -/
def hAddr (u : CoreId) (i : Nat) : WordAddr := BitVec.ofNat 8 (64 * u.unit + 16 + i)

/-- MD5's message words: `X[k] = BLK_MD5[k]` (R61, R134). -/
def wordsAsStored (blk : Vector Word 16) : List Word := blk.toList

/-- The message words of SHA-1 and SHA-256: `W[k] = bswap32(BLK_U[k])` (R61, R163, R193). -/
def wordsSwapped (blk : Vector Word 16) : List Word := blk.toList.map bswap32

end Sys2Proof.Machine
end

