-- ==== Sys2Proof/Machine/Md5Function.lean ====
section
/-! DEFINITION. The MD5 compression function (41_md5_core.md R134 to R137). -/

namespace Sys2Proof.Machine

/-- The working variables of MD5 (R136). -/
structure Md5Vars where
  a : Word
  b : Word
  c : Word
  d : Word
deriving DecidableEq, Repr

/-- `f_i`, the mixing function of the phase that holds round i: F, G, H, I (R135). -/
def md5Mix (i : Nat) (b c d : Word) : Word :=
  match i / 16 with
  | 0 => (b &&& c) ||| (~~~b &&& d)
  | 1 => (d &&& b) ||| (~~~d &&& c)
  | 2 => b ^^^ c ^^^ d
  | _ => c ^^^ (b ||| ~~~d)

/-- One round (R136), on the message words x. -/
def md5Round (x : List Word) (v : Md5Vars) (i : Nat) : Md5Vars :=
  let tmp := v.a + md5Mix i v.b v.c v.d + md5T.getD i 0 + x.getD (md5G i) 0
  { a := v.d, b := v.b + rotl32 tmp (md5S i), c := v.b, d := v.c }

/-- The first n rounds. -/
def md5Rounds (x : List Word) (n : Nat) (v : Md5Vars) : Md5Vars := (List.range n).foldl (md5Round x) v

/-- `md5_compress(H, B)`, B as the block buffer holds it (R134, R137). -/
def md5CompressFn (h : Vector Word 4) (blk : Vector Word 16) : Vector Word 4 :=
  let v := md5Rounds (wordsAsStored blk) 64 { a := h[0], b := h[1], c := h[2], d := h[3] }
  #v[h[0] + v.a, h[1] + v.b, h[2] + v.c, h[3] + v.d]

end Sys2Proof.Machine
end

