-- ==== Sys2Proof/Machine/Sha1Function.lean ====
section
/-! DEFINITION. The SHA-1 compression function (42_sha1_core.md R162 to R166). -/

namespace Sys2Proof.Machine

/-- The working variables of SHA-1 (R165). -/
structure Sha1Vars where
  a : Word
  b : Word
  c : Word
  d : Word
  e : Word
deriving DecidableEq, Repr

/-- `f_t`: Ch, Parity, Maj, Parity in the four phases (R162). -/
def sha1Mix (t : Nat) (b c d : Word) : Word :=
  match t / 20 with
  | 0 => (b &&& c) ^^^ (~~~b &&& d)
  | 1 => b ^^^ c ^^^ d
  | 2 => (b &&& c) ^^^ (b &&& d) ^^^ (c &&& d)
  | _ => b ^^^ c ^^^ d

/-- The next schedule word put before the words so far, which stand newest first: `W[t-3]` is at place 2 (R164). -/
def sha1Extend (w : List Word) : List Word :=
  rotl32 (w.getD 2 0 ^^^ w.getD 7 0 ^^^ w.getD 13 0 ^^^ w.getD 15 0) 1 :: w

/-- The message schedule `W[0..79]` (R163, R164). -/
def sha1Schedule (blk : Vector Word 16) : List Word :=
  ((List.range 64).foldl (fun w _ => sha1Extend w) (wordsSwapped blk).reverse).reverse

/-- One round (R165), on the schedule w. -/
def sha1Round (w : List Word) (v : Sha1Vars) (t : Nat) : Sha1Vars :=
  let tmp := rotl32 v.a 5 + sha1Mix t v.b v.c v.d + v.e + sha1K t + w.getD t 0
  { a := tmp, b := v.a, c := rotl32 v.b 30, d := v.c, e := v.d }

/-- The first n rounds. -/
def sha1Rounds (w : List Word) (n : Nat) (v : Sha1Vars) : Sha1Vars := (List.range n).foldl (sha1Round w) v

/-- `sha1_compress(H, B)`, B as the block buffer holds it (R166). -/
def sha1CompressFn (h : Vector Word 5) (blk : Vector Word 16) : Vector Word 5 :=
  let v := sha1Rounds (sha1Schedule blk) 80 { a := h[0], b := h[1], c := h[2], d := h[3], e := h[4] }
  #v[h[0] + v.a, h[1] + v.b, h[2] + v.c, h[3] + v.d, h[4] + v.e]

end Sys2Proof.Machine
end

