-- ==== Sys2Proof/Machine/Sha256Function.lean ====
section
/-! DEFINITION. The SHA-256 compression function (43_sha256_core.md R192 to R198). -/

namespace Sys2Proof.Machine

/-- The working variables of SHA-256 (R197). -/
structure Sha256Vars where
  a : Word
  b : Word
  c : Word
  d : Word
  e : Word
  f : Word
  g : Word
  h : Word
deriving DecidableEq, Repr

/-- `sigma0` of the schedule (R192). -/
def smallSigma0 (x : Word) : Word := rotr32 x 7 ^^^ rotr32 x 18 ^^^ shr32 x 3

/-- `sigma1` of the schedule (R192). -/
def smallSigma1 (x : Word) : Word := rotr32 x 17 ^^^ rotr32 x 19 ^^^ shr32 x 10

/-- `Sigma0` of the round (R195). -/
def bigSigma0 (x : Word) : Word := rotr32 x 2 ^^^ rotr32 x 13 ^^^ rotr32 x 22

/-- `Sigma1` of the round (R195). -/
def bigSigma1 (x : Word) : Word := rotr32 x 6 ^^^ rotr32 x 11 ^^^ rotr32 x 25

/-- `Ch` (R196). -/
def choose (x y z : Word) : Word := (x &&& y) ^^^ (~~~x &&& z)

/-- `Maj` (R196). -/
def majority (x y z : Word) : Word := (x &&& y) ^^^ (x &&& z) ^^^ (y &&& z)

/-- The next schedule word put before the words so far, which stand newest first: `W[t-2]` is at place 1 (R194). -/
def sha256Extend (w : List Word) : List Word :=
  (smallSigma1 (w.getD 1 0) + w.getD 6 0 + smallSigma0 (w.getD 14 0) + w.getD 15 0) :: w

/-- The message schedule `W[0..63]` (R193, R194). -/
def sha256Schedule (blk : Vector Word 16) : List Word :=
  ((List.range 48).foldl (fun w _ => sha256Extend w) (wordsSwapped blk).reverse).reverse

/-- One round (R197), on the schedule w: the two adder chains T1 and T2. -/
def sha256Round (w : List Word) (v : Sha256Vars) (t : Nat) : Sha256Vars :=
  let t1 := v.h + bigSigma1 v.e + choose v.e v.f v.g + sha256K.getD t 0 + w.getD t 0
  let t2 := bigSigma0 v.a + majority v.a v.b v.c
  { a := t1 + t2, b := v.a, c := v.b, d := v.c, e := v.d + t1, f := v.e, g := v.f, h := v.g }

/-- The first n rounds. -/
def sha256Rounds (w : List Word) (n : Nat) (v : Sha256Vars) : Sha256Vars :=
  (List.range n).foldl (sha256Round w) v

/-- `sha256_compress(H, B)`, B as the block buffer holds it (R198). -/
def sha256CompressFn (h : Vector Word 8) (blk : Vector Word 16) : Vector Word 8 :=
  let v := sha256Rounds (sha256Schedule blk) 64
    { a := h[0], b := h[1], c := h[2], d := h[3], e := h[4], f := h[5], g := h[6], h := h[7] }
  #v[h[0] + v.a, h[1] + v.b, h[2] + v.c, h[3] + v.d, h[4] + v.e, h[5] + v.f, h[6] + v.g, h[7] + v.h]

end Sys2Proof.Machine
end

