-- ==== Sys2Proof/Machine/Ops.lean ====
section
/-! DEFINITION. The named operations on the registers: reading and writing each of them, recording an error and
clearing it, and the three things a core does (load its initial value, start a compression, complete it). The
hardware has no byte memory: its one address space is the window of registers (20_memory.md R52). -/

namespace Sys2Proof.Machine

/-- A step that goes on. -/
abbrev Result := Host.Outcome State Fault Refusal

/-- A change of the hardware alone. -/
def State.mapHw (f : Hw → Hw) (s : State) : State := { s with hw := f s.hw }

/-- The hardware with the registers of core U replaced (R35: no other core's registers). -/
def Hw.setCore (hw : Hw) : (u : CoreId) → CoreRegs (stateLen u) → Hw
  | .md5, c => { hw with md5 := c }
  | .sha1, c => { hw with sha1 := c }
  | .sha256, c => { hw with sha256 := c }

/-- `raise Error(c)`: the first error since the last clear is kept, and nothing else changes
(60_exceptions.md R252). It is the hardware's whole exception entry: no trap, no saved pc (R256). -/
def Hw.raise (c : ErrorCause) (hw : Hw) : Hw :=
  if hw.err then hw else { hw with err := true, ecause := c.code }

/-- Clearing the recorded error; there is no return from an error but this (R257). -/
def Hw.clearError (hw : Hw) : Hw := { hw with err := false, ecause := 0 }

/-- `raise Error(c)` on the whole state (R252). -/
def raiseError (c : ErrorCause) (s : State) : State := s.mapHw (Hw.raise c)

/-- A host write to STATUS: bit 8 clears the error, every other bit is ignored (R38). -/
def writeStatus (v : Word) (s : State) : State :=
  if v.getLsbD 8 then s.mapHw Hw.clearError else s

/-- A host write to ROT_A (R24). -/
def writeRotA (v : Word) (s : State) : State := s.mapHw fun hw => { hw with rotA := v }

/-- A host write to ROT_B (R25). -/
def writeRotB (v : Word) (s : State) : State := s.mapHw fun hw => { hw with rotB := v }

/-- The result of a ROT32 command (R26). -/
def writeRotRes (v : Word) (s : State) : State := s.mapHw fun hw => { hw with rotRes := v }

/-- An effect on core U that its busy state forbids: with `BUSY_U` = 1 it is dropped and the error recorded
(R34, R252, R284). -/
def unlessBusy (u : CoreId) (c : ErrorCause) (f : CoreRegs (stateLen u) → CoreRegs (stateLen u)) (s : State) : State :=
  if s.hw.busy u then raiseError c s else s.mapHw fun hw => hw.setCore u (f (hw.core u))

/-- A host write to `BLK_U[k]` (R58). -/
def writeBlk (u : CoreId) (k : Nat) (v : Word) (s : State) : State :=
  unlessBusy u .writeWhileBusy (fun c => { c with blk := c.blk.setIfInBounds k v }) s

/-- A host write to `H_U[i]` (R58). -/
def writeH (u : CoreId) (i : Nat) (v : Word) (s : State) : State :=
  unlessBusy u .writeWhileBusy (fun c => { c with h := c.h.setIfInBounds i v }) s

/-- `U.INIT` within its CMD write (R140, R170, R200). -/
def initCore (u : CoreId) (s : State) : State :=
  unlessBusy u .cmdWhileBusy (fun c => { c with h := iv u }) s

/-- `U.COMPRESS` at issue, within its CMD write (R141, R171, R201). -/
def issueCompress (u : CoreId) (s : State) : State :=
  unlessBusy u .cmdWhileBusy (fun c => { c with busy := true }) s

/-- `compress_U(H, B)` (R15). -/
def compress : (u : CoreId) → Vector Word (stateLen u) → Vector Word 16 → Vector Word (stateLen u)
  | .md5 => md5CompressFn
  | .sha1 => sha1CompressFn
  | .sha256 => sha256CompressFn

/-- The completion step of core U, enabled exactly when `BUSY_U` = 1 (70_reset_and_hazards.md R283); an idle core
holds its registers (R264). -/
def Hw.complete (u : CoreId) (hw : Hw) : Hw :=
  if hw.busy u then
    hw.setCore u { hw.core u with h := compress u (hw.core u).h (hw.core u).blk, busy := false }
  else hw

/-- `Reset`: every register to its reset value, a compression in flight abandoned (R280). What stands around the
hardware is not the hardware's to reset. -/
def resetHardware (s : State) : State := s.mapHw fun _ => Hw.reset

/-- The word a register holds, `H_U` included whether or not its core is busy; CMD and unmapped offsets read 0
(R57). -/
def registerWord (hw : Hw) : Target → Word
  | .cmd => 0
  | .status => statusWord hw
  | .rotA => hw.rotA
  | .rotB => hw.rotB
  | .rotRes => hw.rotRes
  | .blk u k => (hw.core u).blk.toList.getD k 0
  | .h u i => (hw.core u).h.toList.getD i 0
  | .unmapped => 0

/-- Whether a read of the target returns `draw()`: `H_U` while `BUSY_U` = 1 (R31, R57). -/
def readsDraw (hw : Hw) : Target → Bool
  | .h u _ => hw.busy u
  | .cmd | .status | .rotA | .rotB | .rotRes | .blk _ _ | .unmapped => false

/-- The value a read of the target returns (R57). -/
def readValue (s : State) (t : Target) : Word :=
  if readsDraw s.hw t then Config.draw s.draws else registerWord s.hw t

/-- The host gets a value back: it is observed (R287), and a `draw()` is used up (R31: a fresh one each time). The
hardware does not change (R57). -/
def observe (t : Target) (s : State) : State :=
  { s with reads := s.reads ++ [readValue s t], draws := if readsDraw s.hw t then s.draws + 1 else s.draws }

end Sys2Proof.Machine
end

