-- ==== Sys2Proof/Machine/Md5Core.lean ====
section
/-! DEFINITION. The commands of Md5_core (41_md5_core.md R140, R141). -/

namespace Sys2Proof.Machine

/-- `MD5.INIT`: `H_MD5 <- IV_MD5` unless busy (R140). -/
def execMd5Init (s : State) : Result := .next (initCore .md5 s)

/-- `MD5.COMPRESS` at issue: `BUSY_MD5 <- 1` unless busy. The completion is the core's own step (R141, R283). -/
def execMd5Compress (s : State) : Result := .next (issueCompress .md5 s)

end Sys2Proof.Machine
end

