-- ==== Sys2Proof/Machine/Rot32.lean ====
section
/-! DEFINITION. The ROT32 commands (40_word_primitives.md R105 to R107). Each completes within its CMD write,
whatever the state of the cores, writes ROT_RES alone and raises nothing. -/

namespace Sys2Proof.Machine

/-- `ROTL n`: `ROT_RES <- rotl32(ROT_A, n)` (R105). -/
def execRotl (n : Nat) (s : State) : Result := .next (writeRotRes (rotl32 s.hw.rotA n) s)

/-- `ROTR n`: `ROT_RES <- rotr32(ROT_A, n)` (R106). -/
def execRotr (n : Nat) (s : State) : Result := .next (writeRotRes (rotr32 s.hw.rotA n) s)

/-- `ADD`: `ROT_RES <- ROT_A + ROT_B` mod 2^32 (R107). -/
def execAdd (s : State) : Result := .next (writeRotRes (add32 s.hw.rotA s.hw.rotB) s)

end Sys2Proof.Machine
end

