-- ==== Sys2Proof/Machine/Sha1Core.lean ====
section
/-! DEFINITION. The commands of Sha1_core (42_sha1_core.md R170, R171). -/

namespace Sys2Proof.Machine

/-- `SHA1.INIT`: `H_SHA1 <- IV_SHA1` unless busy (R170). -/
def execSha1Init (s : State) : Result := .next (initCore .sha1 s)

/-- `SHA1.COMPRESS` at issue: `BUSY_SHA1 <- 1` unless busy. The completion is the core's own step (R171, R283). -/
def execSha1Compress (s : State) : Result := .next (issueCompress .sha1 s)

end Sys2Proof.Machine
end

