-- ==== Sys2Proof/Machine/Sha256Core.lean ====
section
/-! DEFINITION. The commands of Sha256_core (43_sha256_core.md R200, R201). -/

namespace Sys2Proof.Machine

/-- `SHA256.INIT`: `H_SHA256 <- IV_SHA256` unless busy (R200). -/
def execSha256Init (s : State) : Result := .next (initCore .sha256 s)

/-- `SHA256.COMPRESS` at issue: `BUSY_SHA256 <- 1` unless busy. The completion is the core's own step (R201, R283). -/
def execSha256Compress (s : State) : Result := .next (issueCompress .sha256 s)

end Sys2Proof.Machine
end

