-- ==== Sys2Proof/Machine/Dispatch.lean ====
section
/-! DEFINITION. Execution of a legal command (30_encoding.md R86), one arm per row of the opcode map. -/

namespace Sys2Proof.Machine

def exec (i : Instr) (s : State) : Host.Outcome State Fault Refusal :=
  match i with
  | .rotl n => Sys2Proof.Machine.execRotl n s
  | .rotr n => Sys2Proof.Machine.execRotr n s
  | .add => Sys2Proof.Machine.execAdd s
  | .md5Init => Sys2Proof.Machine.execMd5Init s
  | .md5Compress => Sys2Proof.Machine.execMd5Compress s
  | .sha1Init => Sys2Proof.Machine.execSha1Init s
  | .sha1Compress => Sys2Proof.Machine.execSha1Compress s
  | .sha256Init => Sys2Proof.Machine.execSha256Init s
  | .sha256Compress => Sys2Proof.Machine.execSha256Compress s

end Sys2Proof.Machine
end

