-- ==== Sys2Proof/Machine/Bus.lean ====
section
/-! DEFINITION. The host's transactions (20_memory.md R50, R57, R58), a core's turn (R283), and which agent moves in
a step. -/

namespace Sys2Proof.Machine

/-- A word written to CMD: a legal one is executed, any other raises ILLEGAL_CMD; legality is tested first
(30_encoding.md R86, R253). -/
def runCommand (v : Word) (s : State) : Result :=
  match decode v with
  | .ok i => exec i s
  | .error _ => .next (raiseError .illegalCmd s)

/-- `BusWrite(off, v)` (R58). The address is decoded before the busy state is looked at (R253). -/
def busWrite (a : WordAddr) (v : Word) (s : State) : Result :=
  match targetOf a with
  | .cmd => runCommand v s
  | .status => .next (writeStatus v s)
  | .rotA => .next (writeRotA v s)
  | .rotB => .next (writeRotB v s)
  | .rotRes => .next (raiseError .badWrite s)
  | .blk u k => .next (writeBlk u k v s)
  | .h u i => .next (writeH u i v s)
  | .unmapped => .next (raiseError .badWrite s)

/-- `BusRead(off)` (R57): it raises nothing and changes no register. -/
def busRead (a : WordAddr) (s : State) : State := observe (targetOf a) s

/-- One transaction, whole and at one instant (R50). -/
def transact (t : Transaction) (s : State) : Result :=
  match t with
  | .write a v => busWrite a v s
  | .read a => .next (busRead a s)
  | .reset => .next (resetHardware s)

/-- The host's turn: its next transaction, or the next read of a `WAITCLR`, which stays at the head of the program
until the value read has no bit of the mask (30_encoding.md R91). A host with nothing left to do does nothing. -/
def hostTurn (s : State) : Result :=
  match s.program with
  | [] => .next s
  | .issue t :: rest => transact t { s with program := rest }
  | .waitClr a mask :: rest =>
    if readValue s (targetOf a) &&& mask = 0 then .next (busRead a { s with program := rest })
    else .next (busRead a s)

/-- Core U's turn: its completion step where one is due (R283). -/
def coreTurn (u : CoreId) (s : State) : State := s.mapHw (Hw.complete u)

/-- The busy core with the lowest unit code. -/
def firstBusy (hw : Hw) : Option CoreId :=
  if hw.busy .md5 then some .md5
  else if hw.busy .sha1 then some .sha1
  else if hw.busy .sha256 then some .sha256
  else none

/-- Who moves next. The schedule says so; a state's schedule is any list, so every interleaving of R66 is some
state's. Where it is used up, a busy core completes (weak fairness, R283), then the host goes on. Log entry 3. -/
def nextAgent (s : State) : Option Agent :=
  match s.schedule with
  | a :: _ => some a
  | [] =>
    match firstBusy s.hw with
    | some u => some (.core u)
    | none => if s.program.isEmpty then none else some .host

/-- The turn that was taken leaves the schedule. -/
def popSchedule (s : State) : State := { s with schedule := s.schedule.tail }

/-- One step: the next agent takes its turn. When the run has ended (R287) the machine holds its registers (R264). -/
def takeTurn (s : State) : Result :=
  match nextAgent s with
  | some .host => hostTurn (popSchedule s)
  | some (.core u) => .next (coreTurn u (popSchedule s))
  | none => .next s

end Sys2Proof.Machine
end

