-- ==== Sys2Proof/Machine/Step.lean ====
section
/-! DEFINITION. One step of the machine, and the state in which the next step runs a given command word. -/

namespace Sys2Proof.Machine

/-- One step: a transaction of the host or a turn of a core, whole and at one instant (R50, R66). -/
def step (s : State) : Host.Outcome State Fault Refusal := takeTurn s

/-- s with `BusWrite(0x000, w)` as the host's next transaction and the host the next to move: the hardware fetches
nothing (R23), so a command reaches it only so. The word is the low nbits of w; log entry 4. -/
def State.withFetchWord (s : State) (nbits w : Nat) : State :=
  { s with
    program := .issue (.write 0 (BitVec.ofNat 32 (w % 2 ^ nbits))) :: s.program
    schedule := .host :: s.schedule }

end Sys2Proof.Machine
end

