-- ==== Sys2Proof/Machine/HostProgram.lean ====
section
/-! DEFINITION. Host programs as text (30_encoding.md R90 to R92): the record of a transaction, the assembler's
lines, the pseudo-instructions, and the transcriber, which refuses by name an offset that spells no transaction
(20_memory.md R54). -/

namespace Sys2Proof.Machine

/-- The record of a transaction (R90). -/
structure Record where
  /-- DIR: 1 = write, 0 = read. -/
  dir : BitVec 1
  /-- WADDR: `off[9:2]`. -/
  waddr : WordAddr
  /-- DATA: the written word, 0 for a read. -/
  data : Word
deriving DecidableEq, Repr

/-- The record of a read or a write (R90). Reset has none. -/
def recordOf : Transaction → Option Record
  | .write a v => some { dir := 1, waddr := a, data := v }
  | .read a => some { dir := 0, waddr := a, data := 0 }
  | .reset => none

/-- The transaction of a record; a read record carries DATA = 0 (R90). -/
def ofRecord (r : Record) : Option Transaction :=
  if r.dir = 1 then some (.write r.waddr r.data)
  else if r.data = 0 then some (.read r.waddr)
  else none

/-- A line of a host program (R91). -/
inductive Line where
  /-- `WR off, v`. -/
  | wr (off : Nat) (v : Word)
  /-- `RD off`. -/
  | rd (off : Nat)
  /-- `label:`, which names a position. -/
  | label (name : String)
  /-- `WAITCLR off, mask, label`. -/
  | waitClr (off : Nat) (mask : Word) (label : String)
deriving DecidableEq, Repr

/-- Why a line spells nothing: its offset is no multiple of 4, or lies above 0x3FC (R54), or a rotate amount cannot
be encoded (R84). -/
inductive LineError where
  | misalignedOffset
  | offsetOutsideWindow
  | amountOutOfRange
deriving DecidableEq, Repr

/-- The word address of an offset, refused by name where there is none (R54). DESIGN CHOICE: an offset that is no
multiple of 4 is named misaligned even where it also lies above 0x3FC; the spec says of neither name which comes first.
Log entry 16. -/
def checkedAddr (off : Nat) : Except LineError WordAddr :=
  match wordAddrOf off with
  | some a => .ok a
  | none => .error (if off % 4 = 0 then .offsetOutsideWindow else .misalignedOffset)

/-- What a line makes the host do (R91). -/
def transcribeLine : Line → Except LineError (List HostOp)
  | .wr off v => (checkedAddr off).map fun a => [.issue (.write a v)]
  | .rd off => (checkedAddr off).map fun a => [.issue (.read a)]
  | .label _ => .ok []
  | .waitClr off mask _ => (checkedAddr off).map fun a => [.waitClr a mask]

/-- A whole host program (R91). DESIGN CHOICE: the first line refused names the refusal of the whole. Log entry 16. -/
def transcribe : List Line → Except LineError (List HostOp)
  | [] => .ok []
  | l :: ls =>
    match transcribeLine l, transcribe ls with
    | .ok ops, .ok rest => .ok (ops ++ rest)
    | .error e, _ => .error e
    | .ok _, .error e => .error e

/-- The pseudo-instructions (R92). -/
inductive Pseudo where
  | rotl (n : Nat)
  | rotr (n : Nat)
  | add
  | init (u : CoreId)
  | compress (u : CoreId)
  | clrErr
  | wait (u : CoreId)
deriving DecidableEq, Repr

/-- The STATUS mask of `BUSY_U`: bit U-1 (R36, R92). -/
def busyMask (u : CoreId) : Word := BitVec.ofNat 32 (2 ^ (u.unit - 1))

/-- The command words of `U.INIT` and `U.COMPRESS` as R92 writes them. -/
def coreCommandWord (u : CoreId) (op : Nat) : Word := BitVec.ofNat 32 (u.unit * 0x10000000 + op * 0x01000000)

/-- The exact expansion of a pseudo-instruction (R92), with the label a WAIT names. -/
def expand (fresh : String) : Pseudo → Except LineError Line
  | .rotl n => if n < 32 then .ok (.wr 0x000 (BitVec.ofNat 32 n)) else .error .amountOutOfRange
  | .rotr n => if n < 32 then .ok (.wr 0x000 (BitVec.ofNat 32 (0x01000000 + n))) else .error .amountOutOfRange
  | .add => .ok (.wr 0x000 0x02000000)
  | .init u => .ok (.wr 0x000 (coreCommandWord u 0))
  | .compress u => .ok (.wr 0x000 (coreCommandWord u 1))
  | .clrErr => .ok (.wr 0x004 0x00000100)
  | .wait u => .ok (.waitClr 0x004 (busyMask u) fresh)

end Sys2Proof.Machine
end

