-- ==== Sys2Proof/Machine/HostStream.lean ====
section
/-! DEFINITION. The host's duties (44_host_stream.md R220 to R234): the digest context, the accumulator, the padder
and the formatter, as the transactions they make the host issue, and the digest as a function. They bind the host and
not the hardware (00_scope.md R5). -/

namespace Sys2Proof.Machine

/-- The phase of a digest (R220, R227). -/
inductive Phase where
  | init
  | accumulating
  | finalizing
  | done
deriving DecidableEq, Repr

/-- The host's digest context (R220); the state vector is `H_U` in the core. -/
structure DigestCtx where
  alg : CoreId
  /-- Bytes read that do not yet form a block; fewer than 64. -/
  tail : List Byte
  /-- The count of input bytes seen. -/
  total : Nat
  phase : Phase
deriving DecidableEq, Repr

/-- Why the host fails fast (R227), or refuses an input (R228). -/
inductive HostMisuse where
  | notAccumulating
  | notFinalizing
  | messageTooLong
deriving DecidableEq, Repr

/-- "wait until BUSY_U == 0" (R221, R222): the poll of R92's WAIT. -/
def waitIdle (u : CoreId) : HostOp := .waitClr statusAddr (busyMask u)

/-- A write of a command word to CMD. -/
def command (i : Instr) : HostOp := .issue (.write cmdAddr (encode i))

/-- `U.INIT`. -/
def initInstr : CoreId → Instr
  | .md5 => .md5Init
  | .sha1 => .sha1Init
  | .sha256 => .sha256Init

/-- `U.COMPRESS`. -/
def compressInstr : CoreId → Instr
  | .md5 => .md5Compress
  | .sha1 => .sha1Compress
  | .sha256 => .sha256Compress

/-- Starting a digest (R221). -/
def beginDigest (u : CoreId) : DigestCtx × List HostOp :=
  ({ alg := u, tail := [], total := 0, phase := .init }, [waitIdle u, command (initInstr u)])

/-- The word of the block buffer that bytes 4k to 4k+3 of a block make (R60, R222). -/
def blockWord (b : List Byte) (k : Nat) : Word :=
  wordLe (b.getD (4 * k) 0) (b.getD (4 * k + 1) 0) (b.getD (4 * k + 2) 0) (b.getD (4 * k + 3) 0)

/-- A 64-byte block as the block buffer holds it (R32). -/
def blockWords (b : List Byte) : Vector Word 16 :=
  #v[blockWord b 0, blockWord b 1, blockWord b 2, blockWord b 3, blockWord b 4, blockWord b 5, blockWord b 6,
     blockWord b 7, blockWord b 8, blockWord b 9, blockWord b 10, blockWord b 11, blockWord b 12, blockWord b 13,
     blockWord b 14, blockWord b 15]

/-- Feeding one block to core U (R222). -/
def feedBlock (u : CoreId) (b : List Byte) : List HostOp :=
  waitIdle u :: ((List.range 16).map fun k => .issue (.write (blkAddr u k) (blockWord b k))) ++
    [command (compressInstr u)]

/-- Cutting 64-byte blocks off the front while at least 64 bytes are left (the loop of R223); the fuel bounds the
number of rounds. -/
def cutBlocks : Nat → List Byte → List (List Byte) × List Byte
  | 0, bs => ([], bs)
  | fuel + 1, bs =>
    if 64 ≤ bs.length then
      let r := cutBlocks fuel (bs.drop 64)
      (bs.take 64 :: r.1, r.2)
    else ([], bs)

/-- All the whole blocks of a byte sequence, and what is left of it. -/
def wholeBlocks (bs : List Byte) : List (List Byte) × List Byte := cutBlocks bs.length bs

/-- Whether the host still takes input (R223, R226, R227). -/
def Phase.takesInput : Phase → Bool
  | .init => true
  | .accumulating => true
  | .finalizing => false
  | .done => false

/-- SHA-1 and SHA-256 inputs of 2^61 bytes or more are refused; MD5 takes any length (R228). -/
def tooLong (u : CoreId) (total : Nat) : Bool :=
  match u with
  | .md5 => false
  | .sha1 => 2 ^ 61 ≤ total
  | .sha256 => 2 ^ 61 ≤ total

/-- `update(chunk)` (R223). -/
def update (c : DigestCtx) (chunk : List Byte) : Except HostMisuse (DigestCtx × List HostOp) :=
  if c.phase.takesInput = false then .error .notAccumulating
  else if tooLong c.alg (c.total + chunk.length) then .error .messageTooLong
  else
    let r := wholeBlocks (c.tail ++ chunk)
    .ok ({ c with tail := r.2, total := c.total + chunk.length, phase := .accumulating },
      r.1.flatMap (feedBlock c.alg))

/-- Appending 0x00 while the length is not 56 mod 64 (the loop of R224); 64 rounds always suffice. -/
def zeroFill : Nat → List Byte → List Byte
  | 0, p => p
  | fuel + 1, p => if p.length % 64 = 56 then p else zeroFill fuel (p ++ [0x00])

/-- The 8 bytes of a 64-bit number, least significant first (R224). -/
def bytesLe64 (l : Nat) : List Byte := (List.range 8).map fun j => BitVec.ofNat 8 (l / 2 ^ (8 * j))

/-- The length field: the bit length mod 2^64 in the algorithm's byte order (R224). -/
def lengthField (u : CoreId) (total : Nat) : List Byte :=
  match u with
  | .md5 => bytesLe64 (8 * total % 2 ^ 64)
  | .sha1 => (bytesLe64 (8 * total % 2 ^ 64)).reverse
  | .sha256 => (bytesLe64 (8 * total % 2 ^ 64)).reverse

/-- `pad(tail, total)` (R224). -/
def pad (u : CoreId) (tail : List Byte) (total : Nat) : List Byte :=
  zeroFill 64 (tail ++ [0x80]) ++ lengthField u total

/-- Reading all of `H_U` once the core is idle (R220, R226). -/
def readState (u : CoreId) : List HostOp :=
  waitIdle u :: (List.range (stateLen u)).map fun i => .issue (.read (hAddr u i))

/-- Putting a saved state vector back (R220). -/
def restoreState (u : CoreId) (h : List Word) : List HostOp :=
  waitIdle u :: (List.range (stateLen u)).map fun i => .issue (.write (hAddr u i) (h.getD i 0))

/-- `finalize()` up to the reads of `H_U` (R226): the padded blocks fed, the wait and the reads. The context is
FINALIZING until `deliver`. -/
def finalize (c : DigestCtx) : Except HostMisuse (DigestCtx × List HostOp) :=
  if c.phase.takesInput = false then .error .notAccumulating
  else
    .ok ({ c with phase := .finalizing },
      (wholeBlocks (pad c.alg c.tail c.total)).1.flatMap (feedBlock c.alg) ++ readState c.alg)

/-- `update` once per chunk, in order, with everything the host issues (R229). -/
def updateAll (c : DigestCtx) : List (List Byte) → Except HostMisuse (DigestCtx × List HostOp)
  | [] => .ok (c, [])
  | chunk :: chunks =>
    match update c chunk with
    | .error e => .error e
    | .ok (c', ops) =>
      match updateAll c' chunks with
      | .error e => .error e
      | .ok (c'', rest) => .ok (c'', ops ++ rest)

/-- The bytes of a digest, in the algorithm's byte order (R230). -/
def digestBytes (u : CoreId) (h : List Word) : List Byte :=
  match u with
  | .md5 => h.flatMap bytesLe
  | .sha1 => h.flatMap bytesBe
  | .sha256 => h.flatMap bytesBe

/-- A lowercase hex digit (R230). -/
def hexDigit (n : Nat) : Char := ['0', '1', '2', '3', '4', '5', '6', '7', '8', '9', 'a', 'b', 'c', 'd', 'e', 'f'].getD n '0'

/-- `format(H_U)`: two lowercase hex digits a byte, the high nibble first (R230). -/
def format (u : CoreId) (h : List Word) : List Char :=
  (digestBytes u h).flatMap fun b => [hexDigit (b.toNat / 16), hexDigit (b.toNat % 16)]

/-- The end of `finalize()`: the words read from `H_U` become the digest and the context is DONE, not reusable
(R226, R227). -/
def deliver (c : DigestCtx) (h : List Word) : Except HostMisuse (DigestCtx × List Char) :=
  if c.phase = .finalizing then .ok ({ c with phase := .done }, format c.alg h) else .error .notFinalizing

/-- A whole digest run: R221, R223 once per chunk, and R226 up to the reads of `H_U`. -/
def digestRun (u : CoreId) (chunks : List (List Byte)) : Except HostMisuse (DigestCtx × List HostOp) :=
  match updateAll (beginDigest u).1 chunks with
  | .error e => .error e
  | .ok (c, fed) =>
    match finalize c with
    | .error e => .error e
    | .ok (c', last) => .ok (c', (beginDigest u).2 ++ fed ++ last)

/-- `blocks(alg, M)` (R231). -/
def blocksOf (u : CoreId) (m : List Byte) : List (List Byte) :=
  (wholeBlocks m).1 ++ (wholeBlocks (pad u (wholeBlocks m).2 m.length)).1

/-- The state vector after all blocks of M, starting from `IV_U` (R231). -/
def digestState (u : CoreId) (m : List Byte) : Vector Word (stateLen u) :=
  (blocksOf u m).foldl (fun h b => compress u h (blockWords b)) (iv u)

/-- `digest(alg, M)` (R231). -/
def digest (u : CoreId) (m : List Byte) : List Char := format u (digestState u m).toList

/-- The byte sequence with bit j of byte i inverted. -/
def flipBit (m : List Byte) (i j : Nat) : List Byte := m.modify i fun b => b ^^^ BitVec.twoPow 8 j

/-- Every byte sequence that differs from m in one bit (R235). -/
def oneBitVariants (m : List Byte) : List (List Byte) :=
  (List.range m.length).flatMap fun i => (List.range 8).map fun j => flipBit m i j

/-- The check of R235 on a given input: no one-bit variant has the input's digest. It is evaluated on inputs and is no
law. -/
def bitSensitive (u : CoreId) (m : List Byte) : Bool :=
  (oneBitVariants m).all fun v => digest u v != digest u m

end Sys2Proof.Machine
end

