-- ==== Sys2Proof/Safety.lean ====
section
/-! DEFINITION. What claims about whole runs are stated with: a run, its end, the invariant of STATUS, which
transactions the spec calls an error, and a host that keeps to the rules. -/

namespace Sys2Proof.Machine

/-- t is the state n steps after s. -/
def Reaches (n : Nat) (s t : State) : Prop := Host.Core.run Sys2Proof.core n s = .next t

/-- The run has ended: the host has nothing left to do and every core is idle (70_reset_and_hazards.md R287). -/
def RunEnded (s : State) : Prop := s.program = [] ∧ ∀ u, s.hw.busy u = false

/-- ERR and ECAUSE belong together: ECAUSE is 0 when ERR = 0, else one of the codes 1 to 4 (60_exceptions.md R250). -/
def Hw.causeRecorded (hw : Hw) : Prop :=
  (hw.err = false → hw.ecause = 0) ∧ (hw.err = true → 1 ≤ hw.ecause.toNat ∧ hw.ecause.toNat ≤ 4)

/-- The core a command is for; ROT32 is none (30_encoding.md R82, R83). -/
def commandCore : Instr → Option CoreId
  | .rotl _ => none
  | .rotr _ => none
  | .add => none
  | .md5Init => some .md5
  | .md5Compress => some .md5
  | .sha1Init => some .sha1
  | .sha1Compress => some .sha1
  | .sha256Init => some .sha256
  | .sha256Compress => some .sha256

/-- The core whose page a byte offset lies in, with the word within the page (20_memory.md R55). -/
def pageOf (off : Nat) : Option (CoreId × Nat) :=
  if 0x100 ≤ off ∧ off < 0x200 then some (.md5, (off - 0x100) / 4)
  else if 0x200 ≤ off ∧ off < 0x300 then some (.sha1, (off - 0x200) / 4)
  else if 0x300 ≤ off ∧ off < 0x400 then some (.sha256, (off - 0x300) / 4)
  else none

/-- The error a transaction raises, as the table of R251 gives it, with the priorities of R253: read off the word,
the offset and the busy bits, without the machine's own decoder. -/
def offence (hw : Hw) : Transaction → Option ErrorCause
  | .read _ => none
  | .reset => none
  | .write a v =>
    if offsetOf a = 0x000 then
      if legal v = false then some .illegalCmd
      else if v.extractLsb' 28 4 = 1 ∧ hw.md5.busy ∨ v.extractLsb' 28 4 = 2 ∧ hw.sha1.busy ∨
          v.extractLsb' 28 4 = 3 ∧ hw.sha256.busy then some .cmdWhileBusy
      else none
    else if offsetOf a ≤ 0x00C then none
    else
      match pageOf (offsetOf a) with
      | none => some .badWrite
      | some (u, w) =>
        if 16 + stateLen u ≤ w then some .badWrite
        else if hw.busy u then some .writeWhileBusy else none

/-- A host operation that is not the Reset transaction. -/
def HostOp.notReset : HostOp → Bool
  | .issue .reset => false
  | .issue (.write _ _) => true
  | .issue (.read _) => true
  | .waitClr _ _ => true

/-- The host has no Reset left to issue. -/
def NoReset (s : State) : Prop := ∀ op ∈ s.program, op.notReset = true

/-- Every poll left in the program waits for busy bits alone (the WAIT of R92). -/
def PollsOnlyBusy (s : State) : Prop :=
  ∀ op ∈ s.program, ∀ a mask, op = .waitClr a mask → a = statusAddr ∧ mask &&& ~~~(7 : Word) = 0

/-- An operation that leaves core U's registers to their owner: no Reset, no command of core U, no write to `BLK_U` or
`H_U` (44_host_stream.md R220: one digest at a time owns them). Reads and polls disturb nothing. -/
def HostOp.foreign (u : CoreId) : HostOp → Bool
  | .waitClr _ _ => true
  | .issue (.read _) => true
  | .issue .reset => false
  | .issue (.write a v) =>
    match targetOf a with
    | .cmd =>
      match decode v with
      | .ok i => decide (commandCore i ≠ some u)
      | .error _ => true
    | .blk w _ => decide (w ≠ u)
    | .h w _ => decide (w ≠ u)
    | .status | .rotA | .rotB | .rotRes | .unmapped => true

/-- The third list interleaves the first two, each in its own order (R232). -/
inductive Merged : List HostOp → List HostOp → List HostOp → Prop where
  | nil : Merged [] [] []
  | left (op : HostOp) (xs ys zs : List HostOp) (h : Merged xs ys zs) : Merged (op :: xs) ys (op :: zs)
  | right (op : HostOp) (xs ys zs : List HostOp) (h : Merged xs ys zs) : Merged xs (op :: ys) (op :: zs)

/-- What stands around the hardware: the host's program, the schedule, the values read, the draws made. -/
def State.sameAround (s t : State) : Prop :=
  t.program = s.program ∧ t.schedule = s.schedule ∧ t.reads = s.reads ∧ t.draws = s.draws

end Sys2Proof.Machine
end

