-- ==== Sys2Proof/Certificates/Slice0/Obligations.lean ====
section
/-! DEFINITION. The statements about the model, one numbered rule of the spec or one whole-machine promise each.
Nothing is proved here. -/

open Sys2Proof Sys2Proof.Machine

/-! ### The command word -/

/-- R81 to R87: encoding drops nothing. Every command the encoding can spell is read back from its word. -/
def Obligations.EncodedCommandsDecodeToThemselves : Prop :=
  ∀ i : Instr, i.wellFormed = true → decode (encode i) = .ok i

/-- R81 to R87: no second word spells a command, and a decoded command is one the encoding can spell. -/
def Obligations.ACommandHasOneWord : Prop :=
  ∀ (v : Word) (i : Instr), decode v = .ok i → encode i = v ∧ i.wellFormed = true

/-- R85: the words that decode are the legal ones, by the spec's fields and, equivalently, by the rows of R87. -/
def Obligations.ExactlyTheLegalWordsDecode : Prop :=
  ∀ v : Word,
    ((∃ i, decode v = .ok i) ↔
      v.extractLsb 23 5 = 0 ∧
        ((v.extractLsb 31 28 = 0 ∧ (v.extractLsb 27 24 = 0 ∨ v.extractLsb 27 24 = 1)) ∨
         (v.extractLsb 31 28 = 0 ∧ v.extractLsb 27 24 = 2 ∧ v.extractLsb 4 0 = 0) ∨
         ((v.extractLsb 31 28 = 1 ∨ v.extractLsb 31 28 = 2 ∨ v.extractLsb 31 28 = 3) ∧
          (v.extractLsb 27 24 = 0 ∨ v.extractLsb 27 24 = 1) ∧ v.extractLsb 4 0 = 0))) ∧
    ((∃ i, decode v = .ok i) ↔ ∃ r ∈ opcodeMap, v &&& r.mask = r.pattern)

/-- R87: each row's words decode to that row's command, no word matches two rows, and a word matching none decodes
to nothing. -/
def Obligations.TheOpcodeMapDecodesRowByRow : Prop :=
  ∀ v : Word,
    (v &&& 0xFFFFFFE0 = 0x00000000 → decode v = .ok (.rotl (v.toNat % 32))) ∧
    (v &&& 0xFFFFFFE0 = 0x01000000 → decode v = .ok (.rotr (v.toNat % 32))) ∧
    (v = 0x02000000 → decode v = .ok .add) ∧
    (v = 0x10000000 → decode v = .ok .md5Init) ∧
    (v = 0x11000000 → decode v = .ok .md5Compress) ∧
    (v = 0x20000000 → decode v = .ok .sha1Init) ∧
    (v = 0x21000000 → decode v = .ok .sha1Compress) ∧
    (v = 0x30000000 → decode v = .ok .sha256Init) ∧
    (v = 0x31000000 → decode v = .ok .sha256Compress) ∧
    (opcodeMap.filter fun r => r.hits v).length ≤ 1 ∧
    ((opcodeMap.filter fun r => r.hits v) = [] → ∀ i, decode v ≠ .ok i)

/-- R81, R83: a word of each family, its bits written out as the opcode map gives them, decodes to its command. The
names of the two refusals are the decoder's (log entry 7). -/
def Obligations.WordsWrittenOutBitByBitDecode : Prop :=
  decode 0b00000000000000000000000000000100 = .ok (.rotl 4) ∧
  decode 0b00000001000000000000000000011111 = .ok (.rotr 31) ∧
  decode 0b00000010000000000000000000000000 = .ok .add ∧
  decode 0b00010001000000000000000000000000 = .ok .md5Compress ∧
  decode 0b00100000000000000000000000000000 = .ok .sha1Init ∧
  decode 0b00110001000000000000000000000000 = .ok .sha256Compress ∧
  decode 0b00110001000000000000000000000001 = .error .amountNotZero ∧
  decode 0b01000000000000000000000000000000 = .error .reservedUnit

/-- R88: a word that matches no row of the opcode map raises ILLEGAL_CMD and has no other effect; every reserved
encoding is such a word; and the word 0 is ROTL by 0, which copies ROT_A into ROT_RES. -/
def Obligations.IllegalWordsOnlyRecordTheirError : Prop :=
  (∀ (v : Word) (s : State), (∀ r ∈ opcodeMap, v &&& r.mask ≠ r.pattern) →
    transact (.write 0 v) s =
      .next { s with hw := { s.hw with err := true, ecause := if s.hw.err then s.hw.ecause else 1 } }) ∧
  (∀ v : Word,
    (4 ≤ (v.extractLsb 31 28).toNat ∨ v.extractLsb 23 5 ≠ 0 ∨
      ((v.extractLsb 31 28).toNat = 0 ∧ 3 ≤ (v.extractLsb 27 24).toNat) ∨
      (1 ≤ (v.extractLsb 31 28).toNat ∧ 2 ≤ (v.extractLsb 27 24).toNat) ∨
      (((v.extractLsb 31 28).toNat ≠ 0 ∨ (v.extractLsb 27 24).toNat = 2) ∧ v.extractLsb 4 0 ≠ 0)) →
    ∀ r ∈ opcodeMap, v &&& r.mask ≠ r.pattern) ∧
  decode 0 = .ok (.rotl 0) ∧
  ∀ s : State, exec (.rotl 0) s = .next { s with hw := { s.hw with rotRes := s.hw.rotA } }

/-- R90: a write is the record (1, WADDR, DATA) and a read (0, WADDR, 0); a record says which transaction it is. That a
record with DIR = 0 and another DATA spells no transaction, and that Reset has no record, is the model's reading (log
entry 14). -/
def Obligations.RecordsSpellTheirTransaction : Prop :=
  (∀ a v, recordOf (.write a v) = some { dir := 1, waddr := a, data := v }) ∧
  (∀ a, recordOf (.read a) = some { dir := 0, waddr := a, data := 0 }) ∧
  (∀ (r : Record) (t : Transaction), ofRecord r = some t ↔ recordOf t = some r)

/-- R92: the word a pseudo-instruction writes to CMD is the word of its command, and CLRERR and WAIT name STATUS. -/
def Obligations.PseudoInstructionsExpandToTheirWords : Prop :=
  (∀ n fresh, n < 32 → expand fresh (.rotl n) = .ok (.wr 0x000 (encode (.rotl n)))) ∧
  (∀ n fresh, n < 32 → expand fresh (.rotr n) = .ok (.wr 0x000 (encode (.rotr n)))) ∧
  (∀ fresh,
    expand fresh .add = .ok (.wr 0x000 0x02000000) ∧
    expand fresh (.init .md5) = .ok (.wr 0x000 0x10000000) ∧
    expand fresh (.compress .md5) = .ok (.wr 0x000 0x11000000) ∧
    expand fresh (.init .sha1) = .ok (.wr 0x000 0x20000000) ∧
    expand fresh (.compress .sha1) = .ok (.wr 0x000 0x21000000) ∧
    expand fresh (.init .sha256) = .ok (.wr 0x000 0x30000000) ∧
    expand fresh (.compress .sha256) = .ok (.wr 0x000 0x31000000) ∧
    expand fresh .clrErr = .ok (.wr 0x004 0x00000100) ∧
    expand fresh (.wait .md5) = .ok (.waitClr 0x004 0x00000001 fresh) ∧
    expand fresh (.wait .sha1) = .ok (.waitClr 0x004 0x00000002 fresh) ∧
    expand fresh (.wait .sha256) = .ok (.waitClr 0x004 0x00000004 fresh))

/-! ### The window -/

/-- R54, R55: every offset of the address map names its register, every other multiple of 4 up to 0x3FC is unmapped,
and no other offset spells a transaction. -/
def Obligations.TheAddressMapIsR55 : Prop :=
  (∀ off : Nat, wordAddrOf off = none ↔ off % 4 ≠ 0 ∨ 0x3FC < off) ∧
  (∀ (off : Nat) (a : WordAddr), wordAddrOf off = some a →
    offsetOf a = off ∧
    targetOf a =
      if off = 0x000 then .cmd else if off = 0x004 then .status
      else if off = 0x008 then .rotA else if off = 0x00C then .rotB else if off = 0x010 then .rotRes
      else if 0x100 ≤ off ∧ off ≤ 0x13C then .blk .md5 ((off - 0x100) / 4)
      else if 0x140 ≤ off ∧ off ≤ 0x14C then .h .md5 ((off - 0x140) / 4)
      else if 0x200 ≤ off ∧ off ≤ 0x23C then .blk .sha1 ((off - 0x200) / 4)
      else if 0x240 ≤ off ∧ off ≤ 0x250 then .h .sha1 ((off - 0x240) / 4)
      else if 0x300 ≤ off ∧ off ≤ 0x33C then .blk .sha256 ((off - 0x300) / 4)
      else if 0x340 ≤ off ∧ off ≤ 0x35C then .h .sha256 ((off - 0x340) / 4)
      else .unmapped)

/-- R57, R31: a read returns the register, 0 for CMD and unmapped offsets, and `draw()` for `H_U` while `BUSY_U` = 1,
whatever value that is; it changes no register. That this value is `Config.draw` of a counter, which moves on by one
exactly when it is used, is the model's choice (log entry 1), and so is the list of values read (log entry 5). -/
def Obligations.ReadsReturnTheRegisterAndChangeNone : Prop :=
  ∀ (a : WordAddr) (s : State), ∃ w d,
    transact (.read a) s = .next { s with reads := s.reads ++ [w], draws := d } ∧
    match targetOf a with
    | .cmd => w = 0 ∧ d = s.draws
    | .status => w = statusWord s.hw ∧ d = s.draws
    | .rotA => w = s.hw.rotA ∧ d = s.draws
    | .rotB => w = s.hw.rotB ∧ d = s.draws
    | .rotRes => w = s.hw.rotRes ∧ d = s.draws
    | .blk u k => (s.hw.core u).blk[k]? = some w ∧ d = s.draws
    | .h u i =>
      if (s.hw.core u).busy then w = Config.draw s.draws ∧ d = s.draws + 1
      else (s.hw.core u).h[i]? = some w ∧ d = s.draws
    | .unmapped => w = 0 ∧ d = s.draws

/-- R36, R37: each bit a read of STATUS returns. The list it is returned on is the model's (log entry 5). -/
def Obligations.StatusReadsBitByBit : Prop :=
  ∀ s : State, ∃ w : Word,
    transact (.read 1) s = .next { s with reads := s.reads ++ [w] } ∧
    ∀ j < 32, w.getLsbD j =
      if j = 0 then s.hw.md5.busy else if j = 1 then s.hw.sha1.busy else if j = 2 then s.hw.sha256.busy
      else if j = 8 then s.hw.err else if 12 ≤ j ∧ j ≤ 15 then s.hw.ecause.getLsbD (j - 12) else false

/-- R38: a write to STATUS clears ERR and ECAUSE when bit 8 is 1 and else does nothing. -/
def Obligations.StatusWritesOnlyClearTheError : Prop :=
  ∀ (v : Word) (s : State),
    (v.getLsbD 8 = true →
      transact (.write 1 v) s = .next { s with hw := { s.hw with err := false, ecause := 0 } }) ∧
    (v.getLsbD 8 = false → transact (.write 1 v) s = .next s)

/-- R58: what a write to each kind of register does; that it changes nothing else is the equality of states. -/
def Obligations.WritesActAsTheirRegisterSays : Prop :=
  ∀ (a : WordAddr) (v : Word) (s : State),
    let failed (c : BitVec 4) : State :=
      { s with hw := { s.hw with err := true, ecause := if s.hw.err then s.hw.ecause else c } }
    match targetOf a with
    | .cmd => transact (.write a v) s =
        match decode v with
        | .ok i => exec i s
        | .error _ => .next (failed 1)
    | .status => transact (.write a v) s =
        .next (if v.getLsbD 8 then { s with hw := { s.hw with err := false, ecause := 0 } } else s)
    | .rotA => transact (.write a v) s = .next { s with hw := { s.hw with rotA := v } }
    | .rotB => transact (.write a v) s = .next { s with hw := { s.hw with rotB := v } }
    | .rotRes => transact (.write a v) s = .next (failed 4)
    | .unmapped => transact (.write a v) s = .next (failed 4)
    | .blk u k => ∃ t, transact (.write a v) s = .next t ∧
        if (s.hw.core u).busy then t = failed 3
        else t.sameAround s ∧ (t.hw.core u).blk[k]? = some v ∧
          ∀ b, b ≠ a → registerWord t.hw (targetOf b) = registerWord s.hw (targetOf b)
    | .h u i => ∃ t, transact (.write a v) s = .next t ∧
        if (s.hw.core u).busy then t = failed 3
        else t.sameAround s ∧ (t.hw.core u).h[i]? = some v ∧
          ∀ b, b ≠ a → registerWord t.hw (targetOf b) = registerWord s.hw (targetOf b)

/-- R285: a value written to a register that takes it is what the very next read returns. -/
def Obligations.AWriteIsSeenByTheNextRead : Prop :=
  ∀ (a : WordAddr) (v : Word) (s : State),
    (match targetOf a with
      | .rotA | .rotB => True
      | .blk u _ | .h u _ => (s.hw.core u).busy = false
      | .cmd | .status | .rotRes | .unmapped => False) →
    ∃ t r, transact (.write a v) s = .next t ∧ transact (.read a) t = .next r ∧ r.reads = s.reads ++ [v]

/-! ### ROT32 -/

/-- R100 to R102: where each bit goes, and the equivalent shift forms. -/
def Obligations.RotatesAndShiftsMoveEachBit : Prop :=
  ∀ (x : Word) (n : Nat), n < 32 →
    (∀ i < 32, (rotl32 x n).getLsbD i = x.getLsbD ((i + 32 - n) % 32)) ∧
    (∀ i < 32, (rotr32 x n).getLsbD i = x.getLsbD ((i + n) % 32)) ∧
    (shr32 x n).toNat = x.toNat / 2 ^ n ∧
    rotl32 x 0 = x ∧ rotr32 x 0 = x ∧
    (1 ≤ n → (rotl32 x n).toNat = (x.toNat * 2 ^ n % 2 ^ 32) ||| (x.toNat / 2 ^ (32 - n))) ∧
    (1 ≤ n → (rotr32 x n).toNat = (x.toNat / 2 ^ n) ||| (x.toNat * 2 ^ (32 - n) % 2 ^ 32))

/-- R104: the laws of rotation, shift and addition. -/
def Obligations.RotationShiftAndAdditionLaws : Prop :=
  (∀ (x : Word) (n : Nat), n < 32 → rotr32 x n = rotl32 x ((32 - n) % 32)) ∧
  (∀ (x : Word) (m n : Nat), m < 32 → n < 32 → rotl32 (rotl32 x m) n = rotl32 x ((m + n) % 32)) ∧
  (∀ (x : Word) (n : Nat), n < 32 → rotl32 (rotr32 x n) n = x) ∧
  (∀ (x : Word) (n : Nat), n < 32 →
    (List.range 32).countP (fun i => (rotl32 x n).getLsbD i) = (List.range 32).countP (fun i => x.getLsbD i) ∧
    (List.range 32).countP (fun i => (rotr32 x n).getLsbD i) = (List.range 32).countP (fun i => x.getLsbD i)) ∧
  (∀ (x : Word) (n : Nat), n < 32 → (shr32 x n).toNat ≤ x.toNat) ∧
  (∀ a b c : Word, add32 a b = add32 b a ∧ add32 (add32 a b) c = add32 a (add32 b c) ∧ add32 a 0 = a ∧
    add32 a (BitVec.ofNat 32 (2 ^ 32 - a.toNat)) = 0)

/-- R105: ROTL completes in every state, moves each bit of ROT_A n places up into ROT_RES, and changes nothing
else. -/
def Obligations.RotlRotatesRotALeftIntoRotRes : Prop :=
  ∀ (s : State) (n : Nat), n < 32 →
    decode (BitVec.ofNat 32 n) = .ok (.rotl n) ∧
    ∃ w : Word, exec (.rotl n) s = .next { s with hw := { s.hw with rotRes := w } } ∧
      ∀ i < 32, w.getLsbD i = s.hw.rotA.getLsbD ((i + 32 - n) % 32)

/-- R106: ROTR completes in every state, moves each bit of ROT_A n places down into ROT_RES, and changes nothing
else. -/
def Obligations.RotrRotatesRotARightIntoRotRes : Prop :=
  ∀ (s : State) (n : Nat), n < 32 →
    decode (BitVec.ofNat 32 (0x01000000 + n)) = .ok (.rotr n) ∧
    ∃ w : Word, exec (.rotr n) s = .next { s with hw := { s.hw with rotRes := w } } ∧
      ∀ i < 32, w.getLsbD i = s.hw.rotA.getLsbD ((i + n) % 32)

/-- R107: ADD completes in every state; ROT_RES takes the sum modulo 2^32, the carry is lost, nothing else
changes. -/
def Obligations.AddWritesTheSumModulo : Prop :=
  decode 0x02000000 = .ok .add ∧ (∀ n, 1 ≤ n → n < 32 → ∀ i, decode (BitVec.ofNat 32 (0x02000000 + n)) ≠ .ok i) ∧
  ∀ s : State, ∃ w : Word, exec .add s = .next { s with hw := { s.hw with rotRes := w } } ∧
    w.toNat = (s.hw.rotA.toNat + s.hw.rotB.toNat) % 2 ^ 32

/-- 40_word_primitives.md section 2: the frame of ROTL, ROTR and ADD. Every register of the window but ROT_RES reads
as before, STATUS among them. -/
def Obligations.Rot32CommandsChangeRotResAlone : Prop :=
  ∀ (i : Instr) (s t : State), commandCore i = none → exec i s = .next t →
    t.sameAround s ∧ (∀ a, offsetOf a ≠ 0x010 → registerWord t.hw (targetOf a) = registerWord s.hw (targetOf a))

/-! ### The core commands -/

/-- R140. -/
def Obligations.Md5InitLoadsTheInitialValue : Prop :=
  decode 0x10000000 = .ok .md5Init ∧
  ∀ s : State,
    (s.hw.md5.busy = false → exec .md5Init s = .next { s with hw := { s.hw with md5 := { s.hw.md5 with
      h := #v[0x67452301, 0xEFCDAB89, 0x98BADCFE, 0x10325476] } } }) ∧
    (s.hw.md5.busy = true → exec .md5Init s = .next { s with hw := { s.hw with
      err := true, ecause := if s.hw.err then s.hw.ecause else 2 } }) ∧
    (∀ t, exec .md5Init s = .next t → exec .md5Init t = .next t)

/-- R170. -/
def Obligations.Sha1InitLoadsTheInitialValue : Prop :=
  decode 0x20000000 = .ok .sha1Init ∧
  ∀ s : State,
    (s.hw.sha1.busy = false → exec .sha1Init s = .next { s with hw := { s.hw with sha1 := { s.hw.sha1 with
      h := #v[0x67452301, 0xEFCDAB89, 0x98BADCFE, 0x10325476, 0xC3D2E1F0] } } }) ∧
    (s.hw.sha1.busy = true → exec .sha1Init s = .next { s with hw := { s.hw with
      err := true, ecause := if s.hw.err then s.hw.ecause else 2 } }) ∧
    (∀ t, exec .sha1Init s = .next t → exec .sha1Init t = .next t)

/-- R200. -/
def Obligations.Sha256InitLoadsTheInitialValue : Prop :=
  decode 0x30000000 = .ok .sha256Init ∧
  ∀ s : State,
    (s.hw.sha256.busy = false → exec .sha256Init s = .next { s with hw := { s.hw with sha256 := { s.hw.sha256 with
      h := #v[0x6a09e667, 0xbb67ae85, 0x3c6ef372, 0xa54ff53a, 0x510e527f, 0x9b05688c, 0x1f83d9ab, 0x5be0cd19] } } }) ∧
    (s.hw.sha256.busy = true → exec .sha256Init s = .next { s with hw := { s.hw with
      err := true, ecause := if s.hw.err then s.hw.ecause else 2 } }) ∧
    (∀ t, exec .sha256Init s = .next t → exec .sha256Init t = .next t)

/-- R141: the issue sets BUSY_MD5 or is dropped; the core's step then replaces H_MD5 and clears BUSY_MD5; nothing
else changes. -/
def Obligations.Md5CompressIsIssuedThenCompleted : Prop :=
  decode 0x11000000 = .ok .md5Compress ∧
  ∀ s : State,
    (s.hw.md5.busy = false →
      exec .md5Compress s = .next { s with hw := { s.hw with md5 := { s.hw.md5 with busy := true } } }) ∧
    (s.hw.md5.busy = true → exec .md5Compress s = .next { s with hw := { s.hw with
      err := true, ecause := if s.hw.err then s.hw.ecause else 2 } }) ∧
    (s.hw.md5.busy = true → ∀ rest, s.schedule = .core .md5 :: rest →
      step s = .next { s with schedule := rest, hw := { s.hw with
        md5 := { h := md5CompressFn s.hw.md5.h s.hw.md5.blk, blk := s.hw.md5.blk, busy := false } } })

/-- R171. -/
def Obligations.Sha1CompressIsIssuedThenCompleted : Prop :=
  decode 0x21000000 = .ok .sha1Compress ∧
  ∀ s : State,
    (s.hw.sha1.busy = false →
      exec .sha1Compress s = .next { s with hw := { s.hw with sha1 := { s.hw.sha1 with busy := true } } }) ∧
    (s.hw.sha1.busy = true → exec .sha1Compress s = .next { s with hw := { s.hw with
      err := true, ecause := if s.hw.err then s.hw.ecause else 2 } }) ∧
    (s.hw.sha1.busy = true → ∀ rest, s.schedule = .core .sha1 :: rest →
      step s = .next { s with schedule := rest, hw := { s.hw with
        sha1 := { h := sha1CompressFn s.hw.sha1.h s.hw.sha1.blk, blk := s.hw.sha1.blk, busy := false } } })

/-- R201. -/
def Obligations.Sha256CompressIsIssuedThenCompleted : Prop :=
  decode 0x31000000 = .ok .sha256Compress ∧
  ∀ s : State,
    (s.hw.sha256.busy = false →
      exec .sha256Compress s = .next { s with hw := { s.hw with sha256 := { s.hw.sha256 with busy := true } } }) ∧
    (s.hw.sha256.busy = true → exec .sha256Compress s = .next { s with hw := { s.hw with
      err := true, ecause := if s.hw.err then s.hw.ecause else 2 } }) ∧
    (s.hw.sha256.busy = true → ∀ rest, s.schedule = .core .sha256 :: rest →
      step s = .next { s with schedule := rest, hw := { s.hw with
        sha256 := { h := sha256CompressFn s.hw.sha256.h s.hw.sha256.blk, blk := s.hw.sha256.blk, busy := false } } })

/-- R33, R35, R140 to R201: the frame of INIT and COMPRESS of core U. Every register but STATUS and H_U reads as
before; COMPRESS leaves H_U as well, INIT every busy bit, and neither touches another core's busy bit. -/
def Obligations.CoreCommandsTouchTheirOwnCoreAlone : Prop :=
  ∀ (i : Instr) (u : CoreId) (s t : State), commandCore i = some u → exec i s = .next t →
    t.sameAround s ∧
    (∀ a, targetOf a ≠ .status → (∀ k, targetOf a ≠ .h u k) →
      registerWord t.hw (targetOf a) = registerWord s.hw (targetOf a)) ∧
    (∀ v, v ≠ u → t.hw.core v = s.hw.core v) ∧
    (i = compressInstr u → (t.hw.core u).h = (s.hw.core u).h) ∧
    (i = initInstr u → (t.hw.core u).busy = (s.hw.core u).busy)

/-! ### The compression functions -/

/-- R134 to R137: MD5's compression in RFC 1321's rolling naming. Sixteen times, four rounds replace a, d, c and b in
place, and the result is added to the state words from before round 0. -/
def Obligations.Md5CompressIsTheRollingForm : Prop :=
  ∀ (h : Vector Word 4) (blk : Vector Word 16),
    let sum (i : Nat) (p q r s : Word) : Word := p + md5Mix i q r s + md5T.getD i 0 + blk.toList.getD (md5G i) 0
    let four (v : Md5Vars) (k : Nat) : Md5Vars :=
      let a := v.b + rotl32 (sum (4 * k) v.a v.b v.c v.d) (md5S (4 * k))
      let d := a + rotl32 (sum (4 * k + 1) v.d a v.b v.c) (md5S (4 * k + 1))
      let c := d + rotl32 (sum (4 * k + 2) v.c d a v.b) (md5S (4 * k + 2))
      let b := c + rotl32 (sum (4 * k + 3) v.b c d a) (md5S (4 * k + 3))
      { a := a, b := b, c := c, d := d }
    let v := (List.range 16).foldl four { a := h[0], b := h[1], c := h[2], d := h[3] }
    md5CompressFn h blk = #v[h[0] + v.a, h[1] + v.b, h[2] + v.c, h[3] + v.d]

/-- R163, R164: SHA-1's schedule has 80 words, the first 16 the byte-swapped block words, each later one the rotated
XOR of four earlier ones. -/
def Obligations.Sha1ScheduleFollowsItsRecurrence : Prop :=
  ∀ blk : Vector Word 16,
    (sha1Schedule blk).length = 80 ∧
    (∀ k < 16, (sha1Schedule blk)[k]? = blk[k]?.map bswap32) ∧
    (∀ t, 16 ≤ t → t < 80 →
      (sha1Schedule blk).getD t 0 =
        rotl32 ((sha1Schedule blk).getD (t - 3) 0 ^^^ (sha1Schedule blk).getD (t - 8) 0 ^^^
          (sha1Schedule blk).getD (t - 14) 0 ^^^ (sha1Schedule blk).getD (t - 16) 0) 1)

/-- R193, R194: SHA-256's schedule has 64 words, the first 16 the byte-swapped block words, each later one the sum of
four earlier ones, two of them mixed. -/
def Obligations.Sha256ScheduleFollowsItsRecurrence : Prop :=
  ∀ blk : Vector Word 16,
    (sha256Schedule blk).length = 64 ∧
    (∀ k < 16, (sha256Schedule blk)[k]? = blk[k]?.map bswap32) ∧
    (∀ t, 16 ≤ t → t < 64 →
      (sha256Schedule blk).getD t 0 =
        smallSigma1 ((sha256Schedule blk).getD (t - 2) 0) + (sha256Schedule blk).getD (t - 7) 0 +
          smallSigma0 ((sha256Schedule blk).getD (t - 15) 0) + (sha256Schedule blk).getD (t - 16) 0)

/-- R134, R163, R193, with R13 and R60: bytes 4k to 4k+3 of a block are MD5's little-endian word k and, swapped from
the same lanes, the big-endian word k of SHA-1 and SHA-256. -/
def Obligations.BlockBytesBecomeMessageWords : Prop :=
  ∀ (b : List Byte) (k : Nat), k < 16 →
    (wordsAsStored (blockWords b))[k]? = some (wordLe (b.getD (4 * k) 0) (b.getD (4 * k + 1) 0)
      (b.getD (4 * k + 2) 0) (b.getD (4 * k + 3) 0)) ∧
    (wordsSwapped (blockWords b))[k]? = some (wordBe (b.getD (4 * k) 0) (b.getD (4 * k + 1) 0)
      (b.getD (4 * k + 2) 0) (b.getD (4 * k + 3) 0)) ∧
    ∀ j < 4, lane ((blockWords b).toList.getD k 0) j = b.getD (4 * k + j) 0

/-- R190: each word of IV_SHA256 is the first 32 bits of the fractional part of the square root of one of the first 8
primes. With n = a * 2^32 + word, n is the square root of p * 2^64 rounded down, and a that of p. -/
def Obligations.Sha256InitialValueIsTheSquareRoots : Prop :=
  ∀ i < 8, ∃ a : Nat, ∃ w : Word, ivSha256[i]? = some w ∧
    a ^ 2 ≤ Nat.nth Nat.Prime i ∧ Nat.nth Nat.Prime i < (a + 1) ^ 2 ∧
    (a * 2 ^ 32 + w.toNat) ^ 2 ≤ Nat.nth Nat.Prime i * 2 ^ 64 ∧
    Nat.nth Nat.Prime i * 2 ^ 64 < (a * 2 ^ 32 + w.toNat + 1) ^ 2

/-- R191: each K[t] of SHA-256 is the first 32 bits of the fractional part of the cube root of the (t+1)-th prime. -/
def Obligations.Sha256ConstantsAreTheCubeRoots : Prop :=
  sha256K.length = 64 ∧
  ∀ t < 64, ∃ a : Nat, ∃ w : Word, sha256K[t]? = some w ∧
    a ^ 3 ≤ Nat.nth Nat.Prime t ∧ Nat.nth Nat.Prime t < (a + 1) ^ 3 ∧
    (a * 2 ^ 32 + w.toNat) ^ 3 ≤ Nat.nth Nat.Prime t * 2 ^ 96 ∧
    Nat.nth Nat.Prime t * 2 ^ 96 < (a * 2 ^ 32 + w.toNat + 1) ^ 3

/-! ### Errors and the busy hazard -/

/-- R250 to R253: which transactions raise which cause; the first is kept, and the offending transaction has no other
effect. No other transaction and no completion records one; ERR and ECAUSE are cleared by a STATUS write with bit 8
and by Reset alone. -/
def Obligations.ErrorsAreRaisedAndRecordedAsTheTableSays : Prop :=
  ErrorCause.illegalCmd.code = 1 ∧ ErrorCause.cmdWhileBusy.code = 2 ∧ ErrorCause.writeWhileBusy.code = 3 ∧
  ErrorCause.badWrite.code = 4 ∧
  (∀ (tr : Transaction) (s : State) (c : ErrorCause), offence s.hw tr = some c →
    transact tr s =
      .next { s with hw := { s.hw with err := true, ecause := if s.hw.err then s.hw.ecause else c.code } }) ∧
  (∀ (tr : Transaction) (s t : State), offence s.hw tr = none → transact tr s = .next t →
    (t.hw.err = s.hw.err ∧ t.hw.ecause = s.hw.ecause) ∨
    (t.hw.err = false ∧ t.hw.ecause = 0 ∧ (tr = .reset ∨ ∃ v, tr = .write 1 v ∧ v.getLsbD 8 = true))) ∧
  (∀ (u : CoreId) (s : State), (coreTurn u s).hw.err = s.hw.err ∧ (coreTurn u s).hw.ecause = s.hw.ecause)

/-- R34: while a core is busy nothing but its own completion or a Reset changes its registers, and a write to them is
dropped with WRITE_WHILE_BUSY. -/
def Obligations.ABusyCoreIsFrozen : Prop :=
  ∀ (u : CoreId) (s : State), (s.hw.core u).busy = true →
    (∀ tr t, tr ≠ .reset → transact tr s = .next t → t.hw.core u = s.hw.core u) ∧
    (∀ v, v ≠ u → (coreTurn v s).hw.core u = s.hw.core u) ∧
    (∀ a v, ((∃ k, targetOf a = .blk u k) ∨ ∃ i, targetOf a = .h u i) →
      transact (.write a v) s =
        .next { s with hw := { s.hw with err := true, ecause := if s.hw.err then s.hw.ecause else 3 } })

/-- R253: an illegal word and an unmapped offset are reported as such even when the core they aim at is busy. -/
def Obligations.DecodingComesBeforeTheBusyState : Prop :=
  ∀ (u : CoreId) (s : State), (s.hw.core u).busy = true → s.hw.err = false →
    (∀ v : Word, (v.extractLsb 31 28).toNat = u.unit → (∀ i, decode v ≠ .ok i) →
      transact (.write 0 v) s = .next { s with hw := { s.hw with err := true, ecause := 1 } }) ∧
    (∀ off a v, u.unit * 0x100 + 0x40 + 4 * stateLen u ≤ off → off < (u.unit + 1) * 0x100 →
      wordAddrOf off = some a →
      transact (.write a v) s = .next { s with hw := { s.hw with err := true, ecause := 4 } })

/-! ### Who may change what -/

/-- R24, R25: ROT_A and ROT_B change by a host write to them or by Reset, and by no command and no completion. -/
def Obligations.RotOperandsChangeOnlyByHostWrites : Prop :=
  ∀ s t : State, step s = .next t →
    (t.hw.rotA ≠ s.hw.rotA → nextAgent s = some .host ∧ ∃ rest, s.program = .issue .reset :: rest ∨
      s.program = .issue (.write 2 t.hw.rotA) :: rest) ∧
    (t.hw.rotB ≠ s.hw.rotB → nextAgent s = some .host ∧ ∃ rest, s.program = .issue .reset :: rest ∨
      s.program = .issue (.write 3 t.hw.rotB) :: rest)

/-- R26: ROT_RES changes by an accepted ROT32 command or by Reset. -/
def Obligations.RotResChangesOnlyByRot32Commands : Prop :=
  ∀ s t : State, step s = .next t → t.hw.rotRes ≠ s.hw.rotRes →
    nextAgent s = some .host ∧ ∃ rest, s.program = .issue .reset :: rest ∨
      ∃ v i, s.program = .issue (.write 0 v) :: rest ∧ decode v = .ok i ∧ commandCore i = none

/-- R32, R33: a word of BLK_U changes by a host write to it while the core is idle or by Reset, and by no command and
no completion. -/
def Obligations.BlockBufferChangesOnlyByHostWrites : Prop :=
  ∀ (u : CoreId) (k : Nat) (s t : State), step s = .next t → (t.hw.core u).blk[k]? ≠ (s.hw.core u).blk[k]? →
    nextAgent s = some .host ∧ ∃ rest, s.program = .issue .reset :: rest ∨
      ∃ a v, s.program = .issue (.write a v) :: rest ∧ targetOf a = .blk u k ∧ (s.hw.core u).busy = false ∧
        (t.hw.core u).blk[k]? = some v

/-- R30: H_U changes by INIT, by the completion of a COMPRESS, by a host write while the core is idle, or by Reset. -/
def Obligations.StateVectorChangesOnlyByItsFourWriters : Prop :=
  ∀ (u : CoreId) (s t : State), step s = .next t → (t.hw.core u).h ≠ (s.hw.core u).h →
    (nextAgent s = some (.core u) ∧ (s.hw.core u).busy = true ∧
      (t.hw.core u).h = compress u (s.hw.core u).h (s.hw.core u).blk) ∨
    (nextAgent s = some .host ∧ ∃ rest,
      (s.program = .issue .reset :: rest ∧ (t.hw.core u).h = iv u) ∨
      ((s.hw.core u).busy = false ∧
        ((s.program = .issue (.write 0 (encode (initInstr u))) :: rest ∧ (t.hw.core u).h = iv u) ∨
          ∃ a v i, s.program = .issue (.write a v) :: rest ∧ targetOf a = .h u i)))

/-- R36, R283: BUSY_U rises by an accepted COMPRESS of that core and falls by its completion or by Reset. -/
def Obligations.BusyRisesByCompressAndFallsByCompletion : Prop :=
  ∀ (u : CoreId) (s t : State), step s = .next t →
    ((s.hw.core u).busy = false → (t.hw.core u).busy = true →
      nextAgent s = some .host ∧ ∃ rest, s.program = .issue (.write 0 (encode (compressInstr u))) :: rest) ∧
    ((s.hw.core u).busy = true → (t.hw.core u).busy = false →
      nextAgent s = some (.core u) ∨ (nextAgent s = some .host ∧ ∃ rest, s.program = .issue .reset :: rest))

/-! ### The cores are independent -/

/-- R35: no transaction and no completion of another core lets one core's next registers depend on anything but its
own, and a command or completion of one core leaves the others' registers alone. -/
def Obligations.CoresShareNoRegisters : Prop :=
  ∀ u : CoreId,
    (∀ (tr : Transaction) (s s' t t' : State), s.hw.core u = s'.hw.core u → transact tr s = .next t →
      transact tr s' = .next t' → t.hw.core u = t'.hw.core u) ∧
    (∀ (v : CoreId) (s s' : State), s.hw.core u = s'.hw.core u →
      (coreTurn v s).hw.core u = (coreTurn v s').hw.core u) ∧
    (∀ (i : Instr) (s t : State), commandCore i ≠ some u → exec i s = .next t → t.hw.core u = s.hw.core u) ∧
    (∀ (v : CoreId) (s : State), v ≠ u → (coreTurn v s).hw.core u = s.hw.core u)

/-- R66: completions of different cores are unordered, because their order makes no difference. -/
def Obligations.CompletionsOfDifferentCoresCommute : Prop :=
  ∀ (u v : CoreId) (s : State), u ≠ v → coreTurn u (coreTurn v s) = coreTurn v (coreTurn u s)

/-! ### Reset -/

/-- R20, R280: every register's reset value. -/
def Obligations.ResetStateHoldsTheResetValues : Prop :=
  State.reset.hw.rotA = 0 ∧ State.reset.hw.rotB = 0 ∧ State.reset.hw.rotRes = 0 ∧
  State.reset.hw.md5.h = #v[0x67452301, 0xEFCDAB89, 0x98BADCFE, 0x10325476] ∧
  State.reset.hw.sha1.h = #v[0x67452301, 0xEFCDAB89, 0x98BADCFE, 0x10325476, 0xC3D2E1F0] ∧
  State.reset.hw.sha256.h =
    #v[0x6a09e667, 0xbb67ae85, 0x3c6ef372, 0xa54ff53a, 0x510e527f, 0x9b05688c, 0x1f83d9ab, 0x5be0cd19] ∧
  (∀ u, (State.reset.hw.core u).blk = Vector.replicate 16 0 ∧ (State.reset.hw.core u).busy = false) ∧
  State.reset.hw.err = false ∧ State.reset.hw.ecause = 0

/-- R280, R281: Reset puts every register at its reset value whatever state it finds, in-flight compressions
abandoned, and each core's H_U is then what U.INIT would load. That Reset leaves what stands around the
hardware is the model's choice (log entry 6). -/
def Obligations.ResetAbandonsEverythingAndEqualsInit : Prop :=
  ∀ s : State, ∃ t, transact .reset s = .next t ∧ t.hw = State.reset.hw ∧ t.sameAround s ∧
    (∀ u, coreTurn u t = t) ∧ ∀ u, exec (initInstr u) t = .next t

/-! ### The step -/

/-- R86, R23: when the host's turn comes and its next transaction writes a legal word to CMD, the step is that
command's execution, with the transaction taken off the host's program and the turn off the schedule. With no turn
fixed and no core busy the host moves (the model's choice, log entry 3). -/
def Obligations.AStepRunsTheDecodedCommand : Prop :=
  ∀ (s : State) (v : Word) (i : Instr) (rest : List HostOp), decode v = .ok i →
    s.program = .issue (.write 0 v) :: rest →
    (∀ turns, s.schedule = .host :: turns → step s = exec i { s with program := rest, schedule := turns }) ∧
    (s.schedule = [] → (∀ u, (s.hw.core u).busy = false) → step s = exec i { s with program := rest })

/-- R91: a WAITCLR reads once a turn and goes on exactly when the value read has no bit of the mask. That its reads are
listed with the others is the model's reading (log entry 5). -/
def Obligations.WaitclrReadsUntilTheMaskIsClear : Prop :=
  ∀ (s : State) (a : WordAddr) (mask : Word) (rest : List HostOp) (turns : List Agent),
    s.program = .waitClr a mask :: rest → s.schedule = .host :: turns →
    ∃ w t, step s = .next t ∧ t.reads = s.reads ++ [w] ∧ t.hw = s.hw ∧ t.schedule = turns ∧
      transact (.read a) s = .next { s with reads := t.reads, draws := t.draws } ∧
      t.program = if w &&& mask = 0 then rest else s.program

/-- R252, R256: nothing stops the machine. From every state a step goes on to a next state; no error is a trap. -/
def Obligations.EveryStepGoesOn : Prop :=
  ∀ s : State, ∃ t, step s = .next t

/-- R250: the reset state meets the invariant of the error record. ResetStateHoldsTheResetValues states the values. -/
def Obligations.CauseIsRecordedAtReset : Prop :=
  State.reset.hw.causeRecorded

/-- R250: from every state in which ECAUSE is 0 when ERR = 0 and one of 1 to 4 otherwise, every step leads to such a
state; the codes 5 to 15 are never produced. -/
def Obligations.EveryStepKeepsTheCauseRecorded : Prop :=
  ∀ s t : State, s.hw.causeRecorded → step s = .next t → t.hw.causeRecorded

/-! ### Runs -/

/-- R67, R42: whatever the host and the other cores do meanwhile, short of a Reset, a core that was busy and is now
first seen idle holds compress_U of the H_U and BLK_U it had at the start, and every read of H_U[i] returns its
word i; until then its registers stand still. -/
def Obligations.ACompletedCompressionIsOfTheIssuedOperands : Prop :=
  ∀ (u : CoreId) (s t : State) (n : Nat), (s.hw.core u).busy = true → NoReset s → Reaches n s t →
    (∀ k < n, ∀ r, Reaches k s r → (r.hw.core u).busy = true) →
    ((t.hw.core u).busy = true → t.hw.core u = s.hw.core u) ∧
    ((t.hw.core u).busy = false →
      (t.hw.core u).blk = (s.hw.core u).blk ∧
      (t.hw.core u).h = compress u (s.hw.core u).h (s.hw.core u).blk ∧
      ∀ i < stateLen u, ∃ r w, transact (.read (hAddr u i)) t = .next r ∧ r.reads = t.reads ++ [w] ∧
        (compress u (s.hw.core u).h (s.hw.core u).blk)[i]? = some w)

/-- R283: a busy core completes. The bound is the model's (log entry 3): the turns the schedule still lists, and the
completions of the three cores. -/
def Obligations.ABusyCoreCompletes : Prop :=
  ∀ (s : State) (u : CoreId), (s.hw.core u).busy = true →
    ∃ k t, k ≤ s.schedule.length + 3 ∧ Reaches k s t ∧ (t.hw.core u).busy = false

/-- R287: every host program whose polls wait for busy bits alone comes to its end, from every state and under every
schedule, and the machine then holds its registers. That a used-up schedule goes on as it does is the model's
choice (log entry 3). -/
def Obligations.EveryRunThatPollsBusyBitsEnds : Prop :=
  ∀ s : State, PollsOnlyBusy s → ∃ n t, Reaches n s t ∧ RunEnded t ∧ step t = .next t

/-! ### The host's duties -/

/-- R224, R225: what padding appends to a tail, and that it makes one final block up to 55 bytes and two from 56 on. -/
def Obligations.PaddingMakesOneOrTwoBlocks : Prop :=
  ∀ (u : CoreId) (tail : List Byte) (total : Nat), tail.length < 64 →
    (pad u tail total).length = (if tail.length ≤ 55 then 64 else 128) ∧
    ∃ zeros field, pad u tail total = tail ++ [0x80] ++ zeros ++ field ∧ (∀ z ∈ zeros, z = 0x00) ∧
      field.length = 8 ∧
      ∀ j < 8, field[if u = .md5 then j else 7 - j]? = some (BitVec.ofNat 8 (8 * total % 2 ^ 64 / 256 ^ j))

/-- R229: however a byte sequence is cut into chunks, the host issues the same transactions: INIT, the blocks of R231
in order, and the reads of H_U. That an input too long is refused by `update` is the model's reading (log entry 11).
-/
def Obligations.ChunkBoundariesDoNotMatter : Prop :=
  ∀ (u : CoreId) (chunks : List (List Byte)),
    (tooLong u chunks.flatten.length = true → digestRun u chunks = .error .messageTooLong) ∧
    (tooLong u chunks.flatten.length = false →
      ∃ c, digestRun u chunks = .ok (c, (beginDigest u).2 ++
        (blocksOf u chunks.flatten).flatMap (feedBlock u) ++ readState u) ∧
        c.total = chunks.flatten.length ∧ c.tail.length < 64 ∧ c.phase = .finalizing)

/-- R227: update and a second finalize fail fast once finalization has begun. -/
def Obligations.HostMisuseFailsFast : Prop :=
  ∀ (c : DigestCtx) (chunk : List Byte), c.phase = .finalizing ∨ c.phase = .done →
    update c chunk = .error .notAccumulating ∧ finalize c = .error .notAccumulating

/-- R230, R234: a digest has 32, 40 or 64 characters, whatever the input. -/
def Obligations.DigestsHaveTheirFixedLength : Prop :=
  ∀ m : List Byte, (digest .md5 m).length = 32 ∧ (digest .sha1 m).length = 40 ∧ (digest .sha256 m).length = 64

/-- R231, R234: a host that follows R221 to R226 gets the digest. From every state and under every schedule, with
every chunking, when the host has issued its last transaction the core holds the digest's state vector and the last
values read format to `digest(alg, M)`. The list of values read is the model's (log entry 5). -/
def Obligations.TheHostProtocolComputesTheDigest : Prop :=
  ∀ (u : CoreId) (chunks : List (List Byte)) (c : DigestCtx) (ops : List HostOp) (s t : State) (n : Nat),
    digestRun u chunks = .ok (c, ops) → s.program = ops → Reaches n s t → t.program = [] →
    (t.hw.core u).h = digestState u chunks.flatten ∧ (t.hw.core u).busy = false ∧
    ∃ seen words, t.reads = seen ++ words ∧ words.length = stateLen u ∧
      format u words = digest u chunks.flatten

/-- R232, R234: the digest does not depend on what the host does with the other cores meanwhile. The operations of a
digest run on core U, interleaved in any way with operations that leave core U alone, lead to the digest's state
vector, and its words are read in their order. The list of values read is the model's (log entry 5). -/
def Obligations.InterleavedWorkDoesNotDisturbADigest : Prop :=
  ∀ (u : CoreId) (chunks : List (List Byte)) (c : DigestCtx) (ops others : List HostOp) (s t : State) (n : Nat),
    digestRun u chunks = .ok (c, ops) → (∀ op ∈ others, op.foreign u = true) → Merged ops others s.program →
    Reaches n s t → t.program = [] →
    (t.hw.core u).h = digestState u chunks.flatten ∧ (t.hw.core u).busy = false ∧
    List.Sublist (digestState u chunks.flatten).toList t.reads
end

