-- ==== Sys2Proof/Laws/State.lean ====
section
/-! SUPPORT. One lemma per field per update of the state and of the hardware, so that no proof unfolds a record
update. -/

namespace Sys2Proof.Machine

/-! A change of the hardware leaves what stands around it. -/

@[simp] theorem mapHw_hw (f : Hw → Hw) (s : State) : (s.mapHw f).hw = f s.hw := rfl
@[simp] theorem mapHw_program (f : Hw → Hw) (s : State) : (s.mapHw f).program = s.program := rfl
@[simp] theorem mapHw_schedule (f : Hw → Hw) (s : State) : (s.mapHw f).schedule = s.schedule := rfl
@[simp] theorem mapHw_reads (f : Hw → Hw) (s : State) : (s.mapHw f).reads = s.reads := rfl
@[simp] theorem mapHw_draws (f : Hw → Hw) (s : State) : (s.mapHw f).draws = s.draws := rfl

/-! The registers of each core. -/

@[simp] theorem core_md5 (hw : Hw) : hw.core .md5 = hw.md5 := rfl
@[simp] theorem core_sha1 (hw : Hw) : hw.core .sha1 = hw.sha1 := rfl
@[simp] theorem core_sha256 (hw : Hw) : hw.core .sha256 = hw.sha256 := rfl

/-! One core's registers replaced. -/

@[simp] theorem core_setCore_self (hw : Hw) (u : CoreId) (c : CoreRegs (stateLen u)) :
    (hw.setCore u c).core u = c := by cases u <;> rfl

theorem core_setCore_other (hw : Hw) {u v : CoreId} (c : CoreRegs (stateLen u)) (h : v ≠ u) :
    (hw.setCore u c).core v = hw.core v := by
  cases u <;> cases v <;> first | rfl | exact absurd rfl h

@[simp] theorem setCore_core (hw : Hw) (u : CoreId) : hw.setCore u (hw.core u) = hw := by cases u <;> rfl
@[simp] theorem setCore_rotA (hw : Hw) (u : CoreId) (c : CoreRegs (stateLen u)) :
    (hw.setCore u c).rotA = hw.rotA := by cases u <;> rfl
@[simp] theorem setCore_rotB (hw : Hw) (u : CoreId) (c : CoreRegs (stateLen u)) :
    (hw.setCore u c).rotB = hw.rotB := by cases u <;> rfl
@[simp] theorem setCore_rotRes (hw : Hw) (u : CoreId) (c : CoreRegs (stateLen u)) :
    (hw.setCore u c).rotRes = hw.rotRes := by cases u <;> rfl
@[simp] theorem setCore_err (hw : Hw) (u : CoreId) (c : CoreRegs (stateLen u)) :
    (hw.setCore u c).err = hw.err := by cases u <;> rfl
@[simp] theorem setCore_ecause (hw : Hw) (u : CoreId) (c : CoreRegs (stateLen u)) :
    (hw.setCore u c).ecause = hw.ecause := by cases u <;> rfl

/-- `BUSY_U` is a field of core U's registers. -/
theorem busy_eq (hw : Hw) (u : CoreId) : hw.busy u = (hw.core u).busy := rfl

/-! The error record changed. -/

/-- `raise Error(c)` written out: ERR is set and the first cause kept (R252). -/
theorem raise_eq (c : ErrorCause) (hw : Hw) :
    hw.raise c = { hw with err := true, ecause := if hw.err then hw.ecause else c.code } := by
  unfold Hw.raise; split
  · rename_i h; cases hw; simp_all
  · rfl

@[simp] theorem raise_rotA (c : ErrorCause) (hw : Hw) : (hw.raise c).rotA = hw.rotA := by rw [raise_eq]
@[simp] theorem raise_rotB (c : ErrorCause) (hw : Hw) : (hw.raise c).rotB = hw.rotB := by rw [raise_eq]
@[simp] theorem raise_rotRes (c : ErrorCause) (hw : Hw) : (hw.raise c).rotRes = hw.rotRes := by rw [raise_eq]
@[simp] theorem raise_err (c : ErrorCause) (hw : Hw) : (hw.raise c).err = true := by rw [raise_eq]
@[simp] theorem raise_ecause (c : ErrorCause) (hw : Hw) :
    (hw.raise c).ecause = if hw.err then hw.ecause else c.code := by rw [raise_eq]
@[simp] theorem raise_core (c : ErrorCause) (hw : Hw) (u : CoreId) : (hw.raise c).core u = hw.core u := by
  rw [raise_eq]; cases u <;> rfl

@[simp] theorem clearError_rotA (hw : Hw) : hw.clearError.rotA = hw.rotA := rfl
@[simp] theorem clearError_rotB (hw : Hw) : hw.clearError.rotB = hw.rotB := rfl
@[simp] theorem clearError_rotRes (hw : Hw) : hw.clearError.rotRes = hw.rotRes := rfl
@[simp] theorem clearError_err (hw : Hw) : hw.clearError.err = false := rfl
@[simp] theorem clearError_ecause (hw : Hw) : hw.clearError.ecause = 0 := rfl
@[simp] theorem clearError_core (hw : Hw) (u : CoreId) : hw.clearError.core u = hw.core u := by cases u <;> rfl

/-! Two hardwares are equal when every register is. -/

theorem hw_ext {a b : Hw} (hA : a.rotA = b.rotA) (hB : a.rotB = b.rotB) (hR : a.rotRes = b.rotRes)
    (hc : ∀ u, a.core u = b.core u) (he : a.err = b.err) (hk : a.ecause = b.ecause) : a = b := by
  have h1 := hc .md5; have h2 := hc .sha1; have h3 := hc .sha256
  cases a; cases b; simp_all [Hw.core]

end Sys2Proof.Machine
end

