-- ==== Sys2Proof/Laws/Ops.lean ====
section
/-! SUPPORT. One lemma per shared operation that says all it can do; proofs cite these and unfold nothing. -/

namespace Sys2Proof.Machine

/-! ### Operations on the hardware -/

/-- `raise Error(c)` on the whole state, written out (R252). -/
theorem raiseError_eq (c : ErrorCause) (s : State) :
    raiseError c s =
      { s with hw := { s.hw with err := true, ecause := if s.hw.err then s.hw.ecause else c.code } } := by
  simp only [raiseError, State.mapHw, raise_eq]

/-- An effect a busy core forbids: dropped and recorded, or done. -/
theorem unlessBusy_cases (u : CoreId) (c : ErrorCause) (f : CoreRegs (stateLen u) → CoreRegs (stateLen u)) (s : State) :
    ((s.hw.core u).busy = true ∧ unlessBusy u c f s = raiseError c s) ∨
    ((s.hw.core u).busy = false ∧ unlessBusy u c f s = s.mapHw fun hw => hw.setCore u (f (hw.core u))) := by
  unfold unlessBusy; rw [busy_eq]
  cases h : (s.hw.core u).busy <;> simp

theorem unlessBusy_busy {u : CoreId} {c : ErrorCause} {f : CoreRegs (stateLen u) → CoreRegs (stateLen u)} {s : State}
    (h : (s.hw.core u).busy = true) : unlessBusy u c f s = raiseError c s := by
  simp [unlessBusy, busy_eq, h]

theorem unlessBusy_idle {u : CoreId} {c : ErrorCause} {f : CoreRegs (stateLen u) → CoreRegs (stateLen u)} {s : State}
    (h : (s.hw.core u).busy = false) :
    unlessBusy u c f s = s.mapHw fun hw => hw.setCore u (f (hw.core u)) := by
  simp [unlessBusy, busy_eq, h]

/-- The completion step of a busy core. -/
theorem complete_busy {u : CoreId} {hw : Hw} (h : (hw.core u).busy = true) :
    hw.complete u =
      hw.setCore u { h := compress u (hw.core u).h (hw.core u).blk, blk := (hw.core u).blk, busy := false } := by
  simp [Hw.complete, busy_eq, h]

/-- The turn of an idle core. -/
theorem complete_idle {u : CoreId} {hw : Hw} (h : (hw.core u).busy = false) : hw.complete u = hw := by
  simp [Hw.complete, busy_eq, h]

/-- Completing touches the core's own registers alone. -/
theorem complete_core_other {u v : CoreId} (hw : Hw) (h : v ≠ u) : (hw.complete u).core v = hw.core v := by
  unfold Hw.complete; split
  · exact core_setCore_other _ _ h
  · rfl

@[simp] theorem complete_rotA (u : CoreId) (hw : Hw) : (hw.complete u).rotA = hw.rotA := by
  unfold Hw.complete; split <;> simp
@[simp] theorem complete_rotB (u : CoreId) (hw : Hw) : (hw.complete u).rotB = hw.rotB := by
  unfold Hw.complete; split <;> simp
@[simp] theorem complete_rotRes (u : CoreId) (hw : Hw) : (hw.complete u).rotRes = hw.rotRes := by
  unfold Hw.complete; split <;> simp
@[simp] theorem complete_err (u : CoreId) (hw : Hw) : (hw.complete u).err = hw.err := by
  unfold Hw.complete; split <;> simp
@[simp] theorem complete_ecause (u : CoreId) (hw : Hw) : (hw.complete u).ecause = hw.ecause := by
  unfold Hw.complete; split <;> simp
@[simp] theorem complete_blk (u v : CoreId) (hw : Hw) : ((hw.complete u).core v).blk = (hw.core v).blk := by
  by_cases h : v = u
  · subst h; unfold Hw.complete; split <;> simp
  · rw [complete_core_other hw h]
@[simp] theorem complete_not_busy (u : CoreId) (hw : Hw) : ((hw.complete u).core u).busy = false := by
  unfold Hw.complete; split
  · simp
  · rename_i h; simpa [busy_eq] using h

end Sys2Proof.Machine
end

