-- ==== Sys2Proof/Laws/Bus.lean ====
section
/-! SUPPORT. What a command, a transaction and a step can do, said once: every one of them goes on, and changes the
hardware in one of the listed ways. -/

namespace Sys2Proof.Machine

/-! ### Word addresses -/

@[simp] theorem targetOf_cmd : targetOf 0 = .cmd := rfl
@[simp] theorem targetOf_status : targetOf 1 = .status := rfl
@[simp] theorem targetOf_statusAddr : targetOf statusAddr = .status := rfl
@[simp] theorem targetOf_cmdAddr : targetOf cmdAddr = .cmd := rfl

theorem targetOf_eq_cmd {a : WordAddr} (h : targetOf a = .cmd) : a = 0 := by
  revert a; decide
theorem targetOf_eq_status {a : WordAddr} (h : targetOf a = .status) : a = 1 := by
  revert a; decide
theorem targetOf_eq_rotA {a : WordAddr} (h : targetOf a = .rotA) : a = 2 := by
  revert a; decide
theorem targetOf_eq_rotB {a : WordAddr} (h : targetOf a = .rotB) : a = 3 := by
  revert a; decide
theorem targetOf_eq_rotRes {a : WordAddr} (h : targetOf a = .rotRes) : a = 4 := by
  revert a; decide

/-- `BLK_U[k]` has one address, and k is at most 15. -/
theorem targetOf_eq_blk {a : WordAddr} {u : CoreId} {k : Nat} (h : targetOf a = .blk u k) :
    k < 16 ∧ a = blkAddr u k := by
  have key : ∀ a : WordAddr,
      (match targetOf a with | .blk u k => decide (k < 16 ∧ a = blkAddr u k) | _ => true) = true := by decide
  have := key a; rw [h] at this; exact of_decide_eq_true this

/-- `H_U[i]` has one address, and i is less than `N_U`. -/
theorem targetOf_eq_h {a : WordAddr} {u : CoreId} {i : Nat} (h : targetOf a = .h u i) :
    i < stateLen u ∧ a = hAddr u i := by
  have key : ∀ a : WordAddr,
      (match targetOf a with | .h u i => decide (i < stateLen u ∧ a = hAddr u i) | _ => true) = true := by decide
  have := key a; rw [h] at this; exact of_decide_eq_true this

theorem targetOf_blkAddr (u : CoreId) {k : Nat} (h : k < 16) : targetOf (blkAddr u k) = .blk u k := by
  revert k; cases u <;> decide
theorem targetOf_hAddr (u : CoreId) {i : Nat} (h : i < stateLen u) : targetOf (hAddr u i) = .h u i := by
  revert i; cases u <;> decide

/-! ### Commands -/

@[simp] theorem commandCore_initInstr (u : CoreId) : commandCore (initInstr u) = some u := by cases u <;> rfl
@[simp] theorem commandCore_compressInstr (u : CoreId) : commandCore (compressInstr u) = some u := by
  cases u <;> rfl

/-- What a command does to the hardware. -/
inductive CommandEffect (i : Instr) (hw : Hw) : Hw → Prop where
  /-- A ROT32 command writes ROT_RES. -/
  | rot (w : Word) (hi : commandCore i = none) : CommandEffect i hw { hw with rotRes := w }
  /-- A core command to a busy core. -/
  | busy (u : CoreId) (hi : commandCore i = some u) (hb : (hw.core u).busy = true) :
      CommandEffect i hw (hw.raise .cmdWhileBusy)
  /-- An accepted INIT. -/
  | init (u : CoreId) (hi : i = initInstr u) (hb : (hw.core u).busy = false) :
      CommandEffect i hw (hw.setCore u { hw.core u with h := iv u })
  /-- An accepted COMPRESS. -/
  | issue (u : CoreId) (hi : i = compressInstr u) (hb : (hw.core u).busy = false) :
      CommandEffect i hw (hw.setCore u { hw.core u with busy := true })

theorem initCore_effect (u : CoreId) (s : State) :
    ∃ g, initCore u s = { s with hw := g } ∧ CommandEffect (initInstr u) s.hw g := by
  rcases unlessBusy_cases u .cmdWhileBusy (fun c => { c with h := iv u }) s with ⟨hb, h⟩ | ⟨hb, h⟩
  · exact ⟨_, h, .busy u (commandCore_initInstr u) hb⟩
  · exact ⟨_, h, .init u rfl hb⟩

theorem issueCompress_effect (u : CoreId) (s : State) :
    ∃ g, issueCompress u s = { s with hw := g } ∧ CommandEffect (compressInstr u) s.hw g := by
  rcases unlessBusy_cases u .cmdWhileBusy (fun c => { c with busy := true }) s with ⟨hb, h⟩ | ⟨hb, h⟩
  · exact ⟨_, h, .busy u (commandCore_compressInstr u) hb⟩
  · exact ⟨_, h, .issue u rfl hb⟩

/-- Every command goes on and does one of these things to the hardware, and nothing to what stands around it. -/
theorem exec_effect (i : Instr) (s : State) :
    ∃ g, exec i s = .next { s with hw := g } ∧ CommandEffect i s.hw g := by
  have lift {i : Instr} {t : State} (h : ∃ g, t = { s with hw := g } ∧ CommandEffect i s.hw g) :
      ∃ g, (Host.Outcome.next t : Result) = .next { s with hw := g } ∧ CommandEffect i s.hw g := by
    obtain ⟨g, rfl, hg⟩ := h; exact ⟨g, rfl, hg⟩
  cases i with
  | rotl n => exact ⟨_, rfl, .rot _ rfl⟩
  | rotr n => exact ⟨_, rfl, .rot _ rfl⟩
  | add => exact ⟨_, rfl, .rot _ rfl⟩
  | md5Init => exact lift (initCore_effect .md5 s)
  | md5Compress => exact lift (issueCompress_effect .md5 s)
  | sha1Init => exact lift (initCore_effect .sha1 s)
  | sha1Compress => exact lift (issueCompress_effect .sha1 s)
  | sha256Init => exact lift (initCore_effect .sha256 s)
  | sha256Compress => exact lift (issueCompress_effect .sha256 s)

/-! ### Writes -/

/-- What a bus write does to the hardware. -/
inductive WriteEffect (a : WordAddr) (v : Word) (hw : Hw) : Hw → Prop where
  /-- The transaction is dropped and its error recorded. -/
  | error (c : ErrorCause) : WriteEffect a v hw (hw.raise c)
  /-- A legal command word written to CMD. -/
  | command (i : Instr) (g : Hw) (ha : a = 0) (hd : decode v = .ok i) (he : CommandEffect i hw g) :
      WriteEffect a v hw g
  /-- A STATUS write with bit 8. -/
  | clear (ha : a = 1) (hv : v.getLsbD 8 = true) : WriteEffect a v hw hw.clearError
  /-- A STATUS write without bit 8. -/
  | ignored (ha : a = 1) (hv : v.getLsbD 8 = false) : WriteEffect a v hw hw
  | rotA (ha : a = 2) : WriteEffect a v hw { hw with rotA := v }
  | rotB (ha : a = 3) : WriteEffect a v hw { hw with rotB := v }
  | blk (u : CoreId) (k : Nat) (ha : targetOf a = .blk u k) (hb : (hw.core u).busy = false) :
      WriteEffect a v hw (hw.setCore u { hw.core u with blk := (hw.core u).blk.setIfInBounds k v })
  | h (u : CoreId) (i : Nat) (ha : targetOf a = .h u i) (hb : (hw.core u).busy = false) :
      WriteEffect a v hw (hw.setCore u { hw.core u with h := (hw.core u).h.setIfInBounds i v })

/-! A write to each kind of register. -/

theorem busWrite_cmd {a : WordAddr} (h : targetOf a = .cmd) (v : Word) (s : State) :
    busWrite a v s = runCommand v s := by simp only [busWrite, h]
theorem busWrite_status {a : WordAddr} (h : targetOf a = .status) (v : Word) (s : State) :
    busWrite a v s = .next (writeStatus v s) := by simp only [busWrite, h]
theorem busWrite_rotA {a : WordAddr} (h : targetOf a = .rotA) (v : Word) (s : State) :
    busWrite a v s = .next (writeRotA v s) := by simp only [busWrite, h]
theorem busWrite_rotB {a : WordAddr} (h : targetOf a = .rotB) (v : Word) (s : State) :
    busWrite a v s = .next (writeRotB v s) := by simp only [busWrite, h]
theorem busWrite_rotRes {a : WordAddr} (h : targetOf a = .rotRes) (v : Word) (s : State) :
    busWrite a v s = .next (raiseError .badWrite s) := by simp only [busWrite, h]
theorem busWrite_blk {a : WordAddr} {u : CoreId} {k : Nat} (h : targetOf a = .blk u k) (v : Word) (s : State) :
    busWrite a v s = .next (writeBlk u k v s) := by simp only [busWrite, h]
theorem busWrite_h {a : WordAddr} {u : CoreId} {i : Nat} (h : targetOf a = .h u i) (v : Word) (s : State) :
    busWrite a v s = .next (writeH u i v s) := by simp only [busWrite, h]
theorem busWrite_unmapped {a : WordAddr} (h : targetOf a = .unmapped) (v : Word) (s : State) :
    busWrite a v s = .next (raiseError .badWrite s) := by simp only [busWrite, h]

/-- A legal word written to CMD is executed. -/
theorem runCommand_ok {v : Word} {i : Instr} (h : decode v = .ok i) (s : State) : runCommand v s = exec i s := by
  simp only [runCommand, h]

/-- Any other word raises ILLEGAL_CMD. -/
theorem runCommand_illegal {v : Word} (h : ∀ i, decode v ≠ .ok i) (s : State) :
    runCommand v s = .next (raiseError .illegalCmd s) := by
  unfold runCommand; split
  · rename_i i hi; exact absurd hi (h i)
  · rfl

/-- Every write goes on and does one of these things to the hardware. -/
theorem busWrite_effect (a : WordAddr) (v : Word) (s : State) :
    ∃ g, busWrite a v s = .next { s with hw := g } ∧ WriteEffect a v s.hw g := by
  unfold busWrite
  split
  · rename_i ha
    unfold runCommand
    split
    · rename_i i hd
      obtain ⟨g, hg, he⟩ := exec_effect i s
      exact ⟨g, hg, .command i g (targetOf_eq_cmd ha) hd he⟩
    · exact ⟨_, rfl, .error _⟩
  · rename_i ha
    unfold writeStatus
    cases hv : v.getLsbD 8
    · exact ⟨s.hw, rfl, .ignored (targetOf_eq_status ha) hv⟩
    · exact ⟨_, rfl, .clear (targetOf_eq_status ha) hv⟩
  · exact ⟨_, rfl, .rotA (targetOf_eq_rotA ‹_›)⟩
  · exact ⟨_, rfl, .rotB (targetOf_eq_rotB ‹_›)⟩
  · exact ⟨_, rfl, .error _⟩
  · rename_i u k ha
    unfold writeBlk
    rcases unlessBusy_cases u .writeWhileBusy (fun c => { c with blk := c.blk.setIfInBounds k v }) s with
      ⟨-, h⟩ | ⟨hb, h⟩ <;> rw [h]
    · exact ⟨_, rfl, .error _⟩
    · exact ⟨_, rfl, .blk u k ha hb⟩
  · rename_i u i ha
    unfold writeH
    rcases unlessBusy_cases u .writeWhileBusy (fun c => { c with h := c.h.setIfInBounds i v }) s with
      ⟨-, h⟩ | ⟨hb, h⟩ <;> rw [h]
    · exact ⟨_, rfl, .error _⟩
    · exact ⟨_, rfl, .h u i ha hb⟩
  · exact ⟨_, rfl, .error _⟩

/-- A command leaves a core's registers alone, or it is a command of that core, found idle. -/
theorem commandEffect_core {i : Instr} {hw g : Hw} (he : CommandEffect i hw g) (u : CoreId) :
    g.core u = hw.core u ∨ ((hw.core u).busy = false ∧ commandCore i = some u) := by
  cases he with
  | rot w h => left; cases u <;> rfl
  | busy v h hb => left; simp
  | init v h hb =>
    by_cases hv : u = v
    · subst hv; subst h; exact .inr ⟨hb, commandCore_initInstr u⟩
    · exact .inl (core_setCore_other _ _ hv)
  | issue v h hb =>
    by_cases hv : u = v
    · subst hv; subst h; exact .inr ⟨hb, commandCore_compressInstr u⟩
    · exact .inl (core_setCore_other _ _ hv)

/-- No write reaches the registers of a busy core (R34). -/
theorem writeEffect_busy {a : WordAddr} {v : Word} {hw g : Hw} (he : WriteEffect a v hw g) (u : CoreId)
    (hb : (hw.core u).busy = true) : g.core u = hw.core u := by
  cases he with
  | error c => simp
  | command i g _ _ he =>
    rcases commandEffect_core he u with h | ⟨h, -⟩
    · exact h
    · rw [hb] at h; cases h
  | clear => simp
  | ignored => rfl
  | rotA => cases u <;> rfl
  | rotB => cases u <;> rfl
  | blk w k _ hb' => apply core_setCore_other; rintro rfl; rw [hb] at hb'; cases hb'
  | h w k _ hb' => apply core_setCore_other; rintro rfl; rw [hb] at hb'; cases hb'

/-! ### Whose turn it is -/

@[simp] theorem popSchedule_hw (s : State) : (popSchedule s).hw = s.hw := rfl
@[simp] theorem popSchedule_program (s : State) : (popSchedule s).program = s.program := rfl
@[simp] theorem popSchedule_schedule (s : State) : (popSchedule s).schedule = s.schedule.tail := rfl
@[simp] theorem popSchedule_reads (s : State) : (popSchedule s).reads = s.reads := rfl
@[simp] theorem popSchedule_draws (s : State) : (popSchedule s).draws = s.draws := rfl

/-- The core found busy is busy. -/
theorem firstBusy_some {hw : Hw} {u : CoreId} (h : firstBusy hw = some u) : (hw.core u).busy = true := by
  unfold firstBusy at h
  split at h
  · cases h; assumption
  · split at h
    · cases h; assumption
    · split at h
      · cases h; assumption
      · cases h

/-- No busy core is found exactly when every core is idle. -/
theorem firstBusy_none {hw : Hw} : firstBusy hw = none ↔ ∀ u, (hw.core u).busy = false := by
  constructor
  · intro h u
    rw [← busy_eq]
    unfold firstBusy at h
    cases h1 : hw.busy .md5 <;> cases h2 : hw.busy .sha1 <;> cases h3 : hw.busy .sha256 <;> simp [h1, h2, h3] at h
    cases u <;> assumption
  · intro h
    have hb : ∀ u, hw.busy u = false := h
    simp [firstBusy, hb]

/-! ### Steps -/

/-- A read that returns the register (nothing that is busy stands in its way). -/
theorem readValue_register {s : State} {t : Target} (h : readsDraw s.hw t = false) :
    readValue s t = registerWord s.hw t := by simp [readValue, h]

/-- Everything one step can do. -/
inductive StepEffect (s : State) : State → Prop where
  /-- The run has ended; nothing moves. -/
  | ended (hn : nextAgent s = none) : StepEffect s s
  /-- A core's turn. -/
  | core (u : CoreId) (hn : nextAgent s = some (.core u)) : StepEffect s (coreTurn u (popSchedule s))
  /-- The host's turn, with nothing left to do. -/
  | idle (hn : nextAgent s = some .host) (hp : s.program = []) : StepEffect s (popSchedule s)
  /-- A write. -/
  | write (a : WordAddr) (v : Word) (rest : List HostOp) (g : Hw) (hn : nextAgent s = some .host)
      (hp : s.program = .issue (.write a v) :: rest) (he : WriteEffect a v s.hw g) :
      StepEffect s { popSchedule s with program := rest, hw := g }
  /-- A read. -/
  | read (a : WordAddr) (rest : List HostOp) (hn : nextAgent s = some .host)
      (hp : s.program = .issue (.read a) :: rest) :
      StepEffect s (busRead a { popSchedule s with program := rest })
  /-- Reset. -/
  | reset (rest : List HostOp) (hn : nextAgent s = some .host) (hp : s.program = .issue .reset :: rest) :
      StepEffect s { popSchedule s with program := rest, hw := Hw.reset }
  /-- The last read of a poll. -/
  | cleared (a : WordAddr) (mask : Word) (rest : List HostOp) (hn : nextAgent s = some .host)
      (hp : s.program = .waitClr a mask :: rest) (hm : readValue s (targetOf a) &&& mask = 0) :
      StepEffect s (busRead a { popSchedule s with program := rest })
  /-- A poll that goes on. -/
  | polled (a : WordAddr) (mask : Word) (rest : List HostOp) (hn : nextAgent s = some .host)
      (hp : s.program = .waitClr a mask :: rest) (hm : readValue s (targetOf a) &&& mask ≠ 0) :
      StepEffect s (busRead a (popSchedule s))

/-- The read value does not see the schedule. -/
@[simp] theorem readValue_popSchedule (s : State) (t : Target) : readValue (popSchedule s) t = readValue s t := rfl

/-- Every step goes on and does one of these things. -/
theorem step_effect (s : State) : ∃ t, step s = .next t ∧ StepEffect s t := by
  unfold step takeTurn
  split
  · rename_i hn
    unfold hostTurn
    split
    · rename_i hp; exact ⟨_, rfl, .idle hn hp⟩
    · rename_i tr rest hp
      cases tr with
      | write a v =>
        obtain ⟨g, hg, he⟩ := busWrite_effect a v { popSchedule s with program := rest }
        exact ⟨_, hg, .write a v rest g hn hp he⟩
      | read a => exact ⟨_, rfl, .read a rest hn hp⟩
      | reset => exact ⟨_, rfl, .reset rest hn hp⟩
    · rename_i a mask rest hp
      split
      · rename_i hm; exact ⟨_, rfl, .cleared a mask rest hn hp hm⟩
      · rename_i hm; exact ⟨_, rfl, .polled a mask rest hn hp hm⟩
  · rename_i u hn; exact ⟨_, rfl, .core u hn⟩
  · rename_i hn; exact ⟨_, rfl, .ended hn⟩

/-- The cases of a step that is known to lead to t. -/
theorem step_cases {s t : State} (h : step s = .next t) : StepEffect s t := by
  obtain ⟨t', h', he⟩ := step_effect s
  rw [h] at h'; cases h'; exact he

/-- Every step takes one turn off the schedule. -/
theorem step_schedule {s t : State} (h : step s = .next t) : t.schedule = s.schedule.tail := by
  cases step_cases h with
  | ended hn =>
    unfold nextAgent at hn; split at hn
    · cases hn
    · rename_i h; rw [h]; rfl
  | _ => rfl

/-! ### Runs -/

@[simp] theorem reaches_zero {s t : State} : Reaches 0 s t ↔ t = s := by
  constructor
  · intro h; cases h; rfl
  · rintro rfl; rfl

/-- A run of n + 1 steps begins with one. -/
theorem reaches_succ {n : Nat} {s t : State} : Reaches (n + 1) s t ↔ ∃ r, step s = .next r ∧ Reaches n r t := by
  obtain ⟨r, hr, -⟩ := step_effect s
  have : Reaches (n + 1) s t ↔ Reaches n r t := by
    show Host.Core.run Sys2Proof.core (n + 1) s = .next t ↔ _
    simp only [Host.Core.run]
    rw [show Host.Core.step Sys2Proof.core s = .next r from hr]; rfl
  rw [this]
  constructor
  · intro h; exact ⟨r, hr, h⟩
  · rintro ⟨r', hr', h⟩; rw [hr] at hr'; cases hr'; exact h

/-- Runs one after the other. -/
theorem reaches_add {m n : Nat} {s t r : State} (h1 : Reaches m s t) (h2 : Reaches n t r) : Reaches (m + n) s r := by
  induction m generalizing s with
  | zero => simp at h1; subst h1; simpa using h2
  | succ m ih =>
    obtain ⟨q, hq, h1⟩ := reaches_succ.1 h1
    rw [show m + 1 + n = (m + n) + 1 by omega]
    exact reaches_succ.2 ⟨q, hq, ih h1⟩

end Sys2Proof.Machine
end

