-- ==== Sys2Proof/Laws/PerInstr.lean ====
section
/-! SUPPORT. Statements made per instruction, one lemma per constructor of `Instr`: here, which fields the word of a
command has (30_encoding.md R81 to R84). -/

namespace Sys2Proof.Laws.EncodeFields

/-- UNIT of a command (R82). -/
def unitOf : Instr → BitVec 4
  | .rotl _ => 0
  | .rotr _ => 0
  | .add => 0
  | .md5Init => 1
  | .md5Compress => 1
  | .sha1Init => 2
  | .sha1Compress => 2
  | .sha256Init => 3
  | .sha256Compress => 3

/-- OP of a command (R83). -/
def opOf : Instr → BitVec 4
  | .rotl _ => 0
  | .rotr _ => 1
  | .add => 2
  | .md5Init => 0
  | .md5Compress => 1
  | .sha1Init => 0
  | .sha1Compress => 1
  | .sha256Init => 0
  | .sha256Compress => 1

/-- AMT of a command (R84). -/
def amtOf : Instr → Nat
  | .rotl n => n
  | .rotr n => n
  | .add => 0
  | .md5Init => 0
  | .md5Compress => 0
  | .sha1Init => 0
  | .sha1Compress => 0
  | .sha256Init => 0
  | .sha256Compress => 0

/-- The word of a command the encoding can spell has the command's UNIT, OP and AMT, and RSV = 0. -/
def Statement (i : Instr) : Prop :=
  i.wellFormed = true →
    unitField (encode i) = unitOf i ∧ opField (encode i) = opOf i ∧ rsvField (encode i) = 0 ∧
    (amtField (encode i)).toNat = amtOf i

/-- The fields of a word put together by `cmd32`. -/
theorem cmd32_fields (unit op amt : Nat) (h : amt < 32) :
    unitField (cmd32 unit op amt) = BitVec.ofNat 4 unit ∧ opField (cmd32 unit op amt) = BitVec.ofNat 4 op ∧
    rsvField (cmd32 unit op amt) = 0 ∧ (amtField (cmd32 unit op amt)).toNat = amt := by
  have ha : amtField (cmd32 unit op amt) = BitVec.ofNat 5 amt := by
    apply BitVec.eq_of_getLsbD_eq; intro i hi
    simp only [amtField, cmd32, BitVec.getLsbD_extractLsb', BitVec.getLsbD_append]
    interval_cases i <;> simp
  refine ⟨?_, ?_, ?_, ?_⟩
  · apply BitVec.eq_of_getLsbD_eq; intro i hi
    simp only [unitField, cmd32, BitVec.getLsbD_extractLsb', BitVec.getLsbD_append]
    interval_cases i <;> simp
  · apply BitVec.eq_of_getLsbD_eq; intro i hi
    simp only [opField, cmd32, BitVec.getLsbD_extractLsb', BitVec.getLsbD_append]
    interval_cases i <;> simp
  · apply BitVec.eq_of_getLsbD_eq; intro i hi
    simp only [rsvField, cmd32, BitVec.getLsbD_extractLsb', BitVec.getLsbD_append]
    interval_cases i <;> simp
  · rw [ha]; simp; omega

theorem rotl (n : Nat) : Statement (.rotl n) := fun h => cmd32_fields 0 0 n (of_decide_eq_true h)
theorem rotr (n : Nat) : Statement (.rotr n) := fun h => cmd32_fields 0 1 n (of_decide_eq_true h)
theorem add : Statement .add := fun _ => cmd32_fields 0 2 0 (by decide)
theorem md5Init : Statement .md5Init := fun _ => cmd32_fields 1 0 0 (by decide)
theorem md5Compress : Statement .md5Compress := fun _ => cmd32_fields 1 1 0 (by decide)
theorem sha1Init : Statement .sha1Init := fun _ => cmd32_fields 2 0 0 (by decide)
theorem sha1Compress : Statement .sha1Compress := fun _ => cmd32_fields 2 1 0 (by decide)
theorem sha256Init : Statement .sha256Init := fun _ => cmd32_fields 3 0 0 (by decide)
theorem sha256Compress : Statement .sha256Compress := fun _ => cmd32_fields 3 1 0 (by decide)

end Sys2Proof.Laws.EncodeFields
end

