-- ==== Sys2Proof/Laws/Primitives.lean ====
section
/-! SUPPORT. Words bit by bit, and the lanes of a word put together from bytes. -/

namespace Sys2Proof

/-- Two words are equal when their 32 bits are. -/
theorem word_ext {x y : Word} (h : ∀ i < 32, x.getLsbD i = y.getLsbD i) : x = y := BitVec.eq_of_getLsbD_eq h

/-- A word's four lanes, put together again, are the word. -/
theorem wordLe_lanes (w : Word) : wordLe (lane w 0) (lane w 1) (lane w 2) (lane w 3) = w := by
  apply word_ext; intro i hi
  simp only [wordLe, lane, BitVec.getLsbD_append, BitVec.getLsbD_extractLsb']
  interval_cases i <;> simp

/-- The lanes of a little-endian word are the bytes it was made from. -/
theorem lane_wordLe (b0 b1 b2 b3 : Byte) :
    lane (wordLe b0 b1 b2 b3) 0 = b0 ∧ lane (wordLe b0 b1 b2 b3) 1 = b1 ∧ lane (wordLe b0 b1 b2 b3) 2 = b2 ∧
    lane (wordLe b0 b1 b2 b3) 3 = b3 := by
  unfold lane wordLe
  refine ⟨?_, ?_, ?_, ?_⟩ <;>
    (apply BitVec.eq_of_getLsbD_eq; intro i hi
     simp only [BitVec.getLsbD_extractLsb', BitVec.getLsbD_append]
     interval_cases i <;> simp)

/-- Swapping the bytes of a word twice gives it back. -/
theorem bswap32_bswap32 (w : Word) : bswap32 (bswap32 w) = w := by
  apply word_ext; intro i hi
  simp only [bswap32, wordBe, lane, BitVec.getLsbD_append, BitVec.getLsbD_extractLsb']
  interval_cases i <;> simp

end Sys2Proof
end

