-- ==== Sys2Proof/Tests/Slice0.lean ====
section
/-! SUPPORT. Tests. Expected values come from the spec's own examples (rules R105 to R107) and from its tables in
95_test_vectors.md, each cited. The second half shows, for every statement that has hypotheses, states and operands
that meet them. -/

namespace Sys2Proof.Tests

open Sys2Proof Sys2Proof.Machine

/-- The state an outcome leads to; the tests use it on steps that go on. -/
def after : Result → State
  | .next t => t
  | .fault _ => State.reset
  | .refused _ => State.reset

/-- Reset, with ROT_A and ROT_B set. -/
def withRot (a b : Word) : State := writeRotB b (writeRotA a State.reset)

/-- Reset, with core U busy. -/
def busyCore (u : CoreId) : State := issueCompress u State.reset

/-- Reset, with a block in core U's buffer and the core busy. -/
def busyWith (u : CoreId) (b : List Byte) : State :=
  issueCompress u (State.reset.mapHw fun hw => hw.setCore u { hw.core u with blk := blockWords b })

/-- Reset, with core U's state vector all zero. -/
def zeroState (u : CoreId) : State :=
  State.reset.mapHw fun hw => hw.setCore u { hw.core u with h := Vector.replicate _ 0 }

/-- Reset, with an error recorded. -/
def failed : State := raiseError .badWrite State.reset

/-- Reset, with a host program. -/
def running (p : List HostOp) : State := { State.reset with program := p }

/-- The bytes of "abc". -/
def abc : List Byte := [0x61, 0x62, 0x63]

/-- The padded block of "abc". -/
def abcBlock (u : CoreId) : List Byte := pad u abc 3

/-! ### What no word spells is refused -/

theorem test_rotl_32_is_ill_formed : (Instr.rotl 32).wellFormed = false := by decide
theorem test_rotr_32_is_ill_formed : (Instr.rotr 32).wellFormed = false := by decide
theorem test_rotl_31_is_well_formed : (Instr.rotl 31).wellFormed = true := by decide

/-! ### Decoding: words written out from R81 to R83 -/

theorem test_decode_rotl : decode 0b0000_0000_0000000000000000000_00100 = .ok (.rotl 4) := by rfl
theorem test_decode_rotr : decode 0b0000_0001_0000000000000000000_11111 = .ok (.rotr 31) := by rfl
theorem test_decode_add : decode 0b0000_0010_0000000000000000000_00000 = .ok .add := by rfl
theorem test_decode_md5Init : decode 0b0001_0000_0000000000000000000_00000 = .ok .md5Init := by rfl
theorem test_decode_md5Compress : decode 0b0001_0001_0000000000000000000_00000 = .ok .md5Compress := by rfl
theorem test_decode_sha1Init : decode 0b0010_0000_0000000000000000000_00000 = .ok .sha1Init := by rfl
theorem test_decode_sha1Compress : decode 0b0010_0001_0000000000000000000_00000 = .ok .sha1Compress := by rfl
theorem test_decode_sha256Init : decode 0b0011_0000_0000000000000000000_00000 = .ok .sha256Init := by rfl
theorem test_decode_sha256Compress : decode 0b0011_0001_0000000000000000000_00000 = .ok .sha256Compress := by rfl
theorem test_decode_reserved_unit : decode 0x40000000 = .error .reservedUnit := by rfl
theorem test_decode_reserved_op : decode 0x03000000 = .error .reservedOp ∧ decode 0x12000000 = .error .reservedOp :=
  ⟨rfl, rfl⟩
theorem test_decode_rsv_bit : decode 0x02000020 = .error .reservedBits := by rfl
theorem test_decode_amount_on_compress : decode 0x11000001 = .error .amountNotZero := by rfl
theorem test_decode_bytes : decodeBytes [0x1f, 0x00, 0x00, 0x01, 0xaa] = .ok (.rotr 31, [0xaa]) ∧
    decodeBytes [0x1f, 0x00, 0x00] = .error .truncated := ⟨rfl, rfl⟩
theorem test_table_words : decodeTableWord 32 0x00000000 = some (.rotl 0) ∧
    decodeTableWord 32 0x31000000 = some .sha256Compress ∧ decodeTableWord 32 0x40000000 = none := by decide

/-- The next step runs the word the host writes to CMD (R86). -/
theorem test_fetch_word_runs :
    (after (step (State.reset.withFetchWord 32 0x11000000))).hw.md5.busy = true := by decide

/-! ### ROT32 (95_test_vectors.md section 3.1) -/

theorem test_rotl_example : (after (exec (.rotl 4) (withRot 0x12345678 0))).hw.rotRes = 0x23456781 := by decide
theorem test_rotl_31 : (after (exec (.rotl 31) (withRot 0x80000001 0))).hw.rotRes = 0xc0000000 := by decide
theorem test_rotr_example : (after (exec (.rotr 4) (withRot 0x12345678 0))).hw.rotRes = 0x81234567 := by decide
theorem test_rotr_7 : (after (exec (.rotr 7) (withRot 0x61626380 0))).hw.rotRes = 0x00c2c4c7 := by decide
theorem test_add_example : (after (exec .add (withRot 0xffffffff 0x00000002))).hw.rotRes = 0x00000001 := by decide
theorem test_add_carry_lost : (after (exec .add (withRot 0x80000000 0x80000000))).hw.rotRes = 0 := by decide

/-! ### INIT (R130, R160, R190, and R250 for a busy core) -/

theorem test_md5Init : (after (exec .md5Init (zeroState .md5))).hw.md5.h =
    #v[0x67452301, 0xEFCDAB89, 0x98BADCFE, 0x10325476] := by decide
theorem test_md5Init_busy : (after (exec .md5Init (busyCore .md5))).hw.ecause = 2 := by decide
theorem test_sha1Init : (after (exec .sha1Init (zeroState .sha1))).hw.sha1.h =
    #v[0x67452301, 0xEFCDAB89, 0x98BADCFE, 0x10325476, 0xC3D2E1F0] := by decide
theorem test_sha1Init_busy : (after (exec .sha1Init (busyCore .sha1))).hw.ecause = 2 := by decide
theorem test_sha256Init : (after (exec .sha256Init (zeroState .sha256))).hw.sha256.h =
    #v[0x6a09e667, 0xbb67ae85, 0x3c6ef372, 0xa54ff53a, 0x510e527f, 0x9b05688c, 0x1f83d9ab, 0x5be0cd19] := by decide
theorem test_sha256Init_busy : (after (exec .sha256Init (busyCore .sha256))).hw.ecause = 2 := by decide

/-! ### COMPRESS: the issue, and the completion on the "abc" block (sections 3.3 to 3.5) -/

theorem test_md5Compress_issue : (after (exec .md5Compress State.reset)).hw.md5.busy = true := by decide
theorem test_md5Compress_abc : (coreTurn .md5 (busyWith .md5 (abcBlock .md5))).hw.md5 =
    { h := #v[0x98500190, 0xb04fd23c, 0x7d3f96d6, 0x727fe128], blk := blockWords (abcBlock .md5), busy := false } := by
  decide +kernel
theorem test_sha1Compress_issue : (after (exec .sha1Compress State.reset)).hw.sha1.busy = true := by decide
theorem test_sha1Compress_abc : (coreTurn .sha1 (busyWith .sha1 (abcBlock .sha1))).hw.sha1.h =
    #v[0xa9993e36, 0x4706816a, 0xba3e2571, 0x7850c26c, 0x9cd0d89d] := by decide +kernel
theorem test_sha256Compress_issue : (after (exec .sha256Compress State.reset)).hw.sha256.busy = true := by decide
theorem test_sha256Compress_abc : (coreTurn .sha256 (busyWith .sha256 (abcBlock .sha256))).hw.sha256.h =
    #v[0xba7816bf, 0x8f01cfea, 0x414140de, 0x5dae2223, 0xb00361a3, 0x96177a9c, 0xb410ff61, 0xf20015ad] := by
  decide +kernel

/-! ### The register interface (section 3.2) -/

/-- Rows 4, 5 and 3. -/
theorem test_reads_at_reset : (busRead 0x53 State.reset).reads = [0x10325476] ∧
    (busRead 0xD7 State.reset).reads = [0x5be0cd19] ∧ (busRead 0x54 State.reset).reads = [0] := by decide
/-- Row 6. -/
theorem test_status_after_illegal_word :
    statusWord (after (transact (.write 0 0x40000000) State.reset)).hw = 0x00001100 := by decide
/-- Row 7: the first cause is kept. -/
theorem test_first_cause_kept :
    statusWord (after (transact (.write 0 0x11000001) failed)).hw = 0x00004100 := by decide
/-- Rows 10 and 11. -/
theorem test_status_write : statusWord (after (transact (.write 1 0x000000ff) failed)).hw = 0x00004100 ∧
    statusWord (after (transact (.write 1 0xffffffff) failed)).hw = 0 := by decide
/-- Row 12. -/
theorem test_write_to_rotRes :
    statusWord (after (transact (.write 4 1) State.reset)).hw = 0x00004100 := by decide
/-- Row 17. -/
theorem test_write_while_busy : statusWord (after (transact (.write 0x81 0xabcdef01) (busyCore .sha1))).hw =
    0x00003102 ∧ (after (transact (.write 0x81 0xabcdef01) (busyCore .sha1))).hw.sha1.blk[1]? = some 0 := by decide
/-- Rows 27, 31 and 33. -/
theorem test_priorities : statusWord (after (transact (.write 0 0x31000000) (busyCore .sha256))).hw = 0x00002104 ∧
    statusWord (after (transact (.write 0 0x21000001) (busyCore .sha1))).hw = 0x00001102 ∧
    statusWord (after (transact (.write 0x95 0) (busyCore .sha1))).hw = 0x00004102 := by decide
/-- Row 15: a read of H while its core is busy returns the free value and uses it up. -/
theorem test_read_while_busy : busRead 0x90 (busyCore .sha1) =
    { busyCore .sha1 with reads := [Config.draw 0], draws := 1 } := by rfl

/-! ### The host's duties (sections 3.6 to 3.8) -/

theorem test_pad_lengths :
    ([0, 1, 54, 55, 56, 57, 62, 63].map fun n => (pad .md5 (List.replicate n 0x61) n).length) =
    [64, 64, 64, 64, 128, 128, 128, 128] := by decide +kernel
theorem test_length_fields : lengthField .md5 0x0123456789 = [0x48, 0x3c, 0x2b, 0x1a, 0x09, 0x00, 0x00, 0x00] ∧
    lengthField .sha1 0x0123456789 = [0x00, 0x00, 0x00, 0x09, 0x1a, 0x2b, 0x3c, 0x48] ∧
    lengthField .md5 (2 ^ 61) = List.replicate 8 0 := by decide
theorem test_digest_md5_abc : digest .md5 abc = "900150983cd24fb0d6963f7d28e17f72".toList := by decide +kernel
theorem test_digest_sha1_abc : digest .sha1 abc = "a9993e364706816aba3e25717850c26c9cd0d89d".toList := by
  decide +kernel
theorem test_digest_sha256_empty :
    digest .sha256 [] = "e3b0c44298fc1c149afbf4c8996fb92427ae41e4649b934ca495991b7852b855".toList := by
  decide +kernel
/-- Section 3.7, the two-block message of 56 bytes: the tail length at which padding starts a second block. -/
theorem test_digest_md5_56 : digest .md5 (List.replicate 56 0x61) = "3b0c8ac703f828b04c6c197006d17218".toList := by
  decide +kernel
/-- Section 3.9: "abb" is "abc" with bit 0 of its last byte inverted, and its three digests. -/
theorem test_digest_abb : flipBit abc 2 0 = [0x61, 0x62, 0x62] ∧
    digest .md5 [0x61, 0x62, 0x62] = "ea01e5fd8e4d8832825acdd20eac5104".toList ∧
    digest .sha1 [0x61, 0x62, 0x62] = "c64d3fcde20c5cd03142171e5ac47a87aa3c8ace".toList ∧
    digest .sha256 [0x61, 0x62, 0x62] =
      "715edf8ba8729420cd4d1ce85ed61954a9f531f8c548df728c407effe839296d".toList := by decide +kernel
/-- R235 on the pair of section 3.9: the digests of "abc" and "abb" differ. -/
theorem test_abc_abb_differ : [0x61, 0x62, 0x62] ∈ oneBitVariants abc ∧
    ∀ u : CoreId, digest u [0x61, 0x62, 0x62] ≠ digest u abc := by
  refine ⟨by decide, fun u => ?_⟩
  cases u <;> decide +kernel
/-- R235 on the one byte "a": each of its 8 one-bit variants has another digest. -/
theorem test_bit_sensitive : ∀ u : CoreId, bitSensitive u [0x61] = true := by
  intro u; cases u <;> decide +kernel
theorem test_transcribe : transcribe [.wr 0x100 7, .label "poll", .waitClr 0x004 1 "poll", .rd 0x140] =
    .ok [.issue (.write 0x40 7), .waitClr 1 1, .issue (.read 0x50)] := by decide
theorem test_transcribe_refuses : transcribe [.rd 0x006] = .error .misalignedOffset ∧
    transcribe [.rd 0x400] = .error .offsetOutsideWindow ∧ transcribe [.rd 0x401] = .error .misalignedOffset ∧ expand "l" (.rotl 32) = .error .amountOutOfRange := by
  decide

/-! ### Witnesses: states and operands that meet the hypotheses of each statement, clause by clause -/

/-- O1, O2: the smallest and the greatest amount, and a command without one. -/
theorem test_meets_encoding : (Instr.rotl 0).wellFormed = true ∧ (Instr.rotr 31).wellFormed = true ∧
    Instr.sha256Compress.wellFormed = true ∧ decode 0x0100001f = .ok (.rotr 31) := ⟨rfl, rfl, rfl, rfl⟩

/-- O4: a word of each row with operands, and one that matches none. -/
theorem test_meets_opcode_map : (0x0000001f : Word) &&& 0xFFFFFFE0 = 0x00000000 ∧
    (0x0100001f : Word) &&& 0xFFFFFFE0 = 0x01000000 ∧ (opcodeMap.filter fun r => r.hits 0x11000001) = [] := by decide

/-- O6: a word of each reserved kind, each matching no row, and a state with an error recorded and one without. -/
theorem test_meets_illegal_words :
    (∀ v ∈ [(0x40000000 : Word), 0xF0000000, 0x00000020, 0x00800000, 0x03000000, 0x12000000, 0x02000001, 0x1000001f],
      ∀ r ∈ opcodeMap, v &&& r.mask ≠ r.pattern) ∧
    4 ≤ ((0x40000000 : Word).extractLsb 31 28).toNat ∧ (0x00000020 : Word).extractLsb 23 5 ≠ 0 ∧
    (0x00800000 : Word).extractLsb 23 5 ≠ 0 ∧ 3 ≤ ((0x03000000 : Word).extractLsb 27 24).toNat ∧
    2 ≤ ((0x12000000 : Word).extractLsb 27 24).toNat ∧ (0x1000001f : Word).extractLsb 4 0 ≠ 0 ∧
    failed.hw.err = true ∧ State.reset.hw.err = false := by
  refine ⟨by simp [opcodeMap], ?_, ?_, ?_, ?_, ?_, ?_, rfl, rfl⟩ <;> simp

/-- O7: a record that spells a transaction. -/
theorem test_meets_records : ofRecord { dir := 1, waddr := 0x40, data := 5 } = some (.write 0x40 5) ∧
    recordOf (.write 0x40 5) = some { dir := 1, waddr := 0x40, data := 5 } ∧
    ofRecord { dir := 0, waddr := 0x40, data := 5 } = none := by decide

/-- O9: both ends of every range of the map, and offsets that spell nothing. -/
theorem test_meets_address_map :
    [0x000, 0x010, 0x014, 0x0FC, 0x100, 0x13C, 0x140, 0x14C, 0x150, 0x1FC, 0x200, 0x23C, 0x240, 0x250, 0x254].map
      wordAddrOf = [0x00, 0x04, 0x05, 0x3F, 0x40, 0x4F, 0x50, 0x53, 0x54, 0x7F, 0x80, 0x8F, 0x90, 0x94, 0x95].map some ∧
    [0x300, 0x33C, 0x340, 0x35C, 0x360, 0x3FC].map wordAddrOf = [0xC0, 0xCF, 0xD0, 0xD7, 0xD8, 0xFF].map some ∧
    [0x001, 0x00A, 0x3FD, 0x400].map wordAddrOf = [none, none, none, none] ∧
    [0x4F, 0x50, 0x53, 0x54, 0x94, 0x95, 0xD7, 0xD8].map targetOf =
      [.blk .md5 15, .h .md5 0, .h .md5 3, .unmapped, .h .sha1 4, .unmapped, .h .sha256 7, .unmapped] := by decide

/-- O10, O13, O14, O35: a busy and an idle core under an address of its block and of its state vector. -/
theorem test_meets_reads_and_writes : targetOf 0xCF = .blk .sha256 15 ∧ targetOf 0xD7 = .h .sha256 7 ∧
    ((busyCore .sha256).hw.core .sha256).busy = true ∧ (State.reset.hw.core .sha256).busy = false ∧
    targetOf 2 = .rotA ∧ targetOf 3 = .rotB ∧ targetOf 0x40 = .blk .md5 0 ∧ targetOf 0x90 = .h .sha1 0 := by decide

/-- O12: a word with bit 8 and one without. -/
theorem test_meets_status_write : (0x100 : Word).getLsbD 8 = true ∧ (0xfffffeff : Word).getLsbD 8 = false := by decide

/-- O8, O15 to O19, O29 to O33, O43: both ends of the ranges an amount, an index or a round is taken from, and two
different cores. -/
theorem test_meets_ranges : (0 < 32 ∧ 31 < 32) ∧ (1 ≤ 1 ∧ 1 ≤ 31) ∧ (16 ≤ 16 ∧ 16 < 80) ∧ (16 ≤ 79 ∧ 79 < 80) ∧
    (16 ≤ 63 ∧ 63 < 64) ∧ (0 < 16 ∧ 15 < 16) ∧ (0 < 8 ∧ 7 < 8) ∧ CoreId.md5 ≠ CoreId.sha256 := by decide

/-- O20, O27: a ROT32 command and two core commands, on states they go on from. -/
theorem test_meets_command_frames : commandCore (.rotl 31) = none ∧ commandCore .add = none ∧
    commandCore .md5Init = some .md5 ∧ commandCore .sha256Compress = some .sha256 ∧
    (∃ t, exec .add State.reset = .next t) ∧ (∃ t, exec .md5Init (busyCore .md5) = .next t) ∧
    (∃ t, exec .sha256Compress State.reset = .next t) :=
  ⟨rfl, rfl, rfl, rfl, ⟨_, rfl⟩, ⟨_, rfl⟩, ⟨_, rfl⟩⟩

/-- O21 to O26: each core idle, busy, and busy with the next turn its own. -/
theorem test_meets_core_commands : ∀ u : CoreId, (State.reset.hw.core u).busy = false ∧
    ((busyCore u).hw.core u).busy = true ∧
    ({ busyCore u with schedule := [.core u, .host] } : State).schedule = .core u :: [.host] := by
  intro u; cases u <;> exact ⟨rfl, rfl, rfl⟩

/-- O34: the first and the last offset of each error, and a transaction that raises none. -/
theorem test_meets_offence :
    offence Hw.reset (.write 0x00 0x40000000) = some .illegalCmd ∧
    offence Hw.reset (.write 0x04 0) = some .badWrite ∧ offence Hw.reset (.write 0x3F 0) = some .badWrite ∧
    offence Hw.reset (.write 0x54 0) = some .badWrite ∧ offence Hw.reset (.write 0xFF 0) = some .badWrite ∧
    offence (busyCore .sha1).hw (.write 0x00 0x20000000) = some .cmdWhileBusy ∧
    offence (busyCore .sha1).hw (.write 0x80 0) = some .writeWhileBusy ∧
    offence (busyCore .sha1).hw (.write 0x94 0) = some .writeWhileBusy ∧
    offence (busyCore .sha1).hw (.write 0x95 0) = some .badWrite ∧
    offence (busyCore .sha1).hw (.write 0x00 0x21000001) = some .illegalCmd ∧
    offence (busyCore .sha1).hw (.write 0x7F 0) = some .badWrite ∧
    offence (busyCore .sha1).hw (.write 0x53 0) = none ∧ offence (busyCore .sha1).hw (.write 0x00 0x02000000) = none ∧
    offence (busyCore .sha1).hw (.write 0x03 7) = none ∧ offence (busyCore .sha1).hw (.write 0x01 0x100) = none ∧
    offence (busyCore .sha1).hw (.read 0x90) = none ∧ offence failed.hw .reset = none := by decide

/-- O36: a busy core with no error recorded, an illegal word of its unit, and both ends of its unmapped range. -/
theorem test_meets_priorities : ((busyCore .md5).hw.core .md5).busy = true ∧ (busyCore .md5).hw.err = false ∧
    ((0x11000001 : Word).extractLsb 31 28).toNat = CoreId.md5.unit ∧ (∀ i, decode 0x11000001 ≠ .ok i) ∧
    wordAddrOf 0x150 = some 0x54 ∧ wordAddrOf 0x1FC = some 0x7F := by
  refine ⟨rfl, rfl, rfl, ?_, rfl, rfl⟩; intro i h; cases h

/-- O37 to O41, O50: steps that change ROT_A, ROT_B, ROT_RES, a block word, a state vector (in its four ways) and a
busy bit (both ways). -/
theorem test_meets_who_changes_what :
    (after (step (running [.issue (.write 2 7)]))).hw.rotA ≠ State.reset.hw.rotA ∧
    (after (step (running [.issue (.write 3 7)]))).hw.rotB ≠ State.reset.hw.rotB ∧
    (after (step { withRot 7 0 with program := [.issue (.write 0 4)] })).hw.rotRes ≠ (withRot 7 0).hw.rotRes ∧
    (after (step (running [.issue (.write 0x4F 7)]))).hw.md5.blk[15]? ≠ State.reset.hw.md5.blk[15]? ∧
    (after (step (running [.issue (.write 0x50 7)]))).hw.md5.h ≠ State.reset.hw.md5.h ∧
    (after (step { zeroState .md5 with program := [.issue (.write 0 0x10000000)] })).hw.md5.h ≠
      (zeroState .md5).hw.md5.h ∧
    (after (step { zeroState .md5 with program := [.issue .reset] })).hw.md5.h ≠ (zeroState .md5).hw.md5.h ∧
    (after (step (busyCore .md5))).hw.md5.h ≠ (busyCore .md5).hw.md5.h ∧
    (after (step (running [.issue (.write 0 0x11000000)]))).hw.md5.busy = true ∧
    (after (step (busyCore .md5))).hw.md5.busy = false := by
  refine ⟨?_, ?_, ?_, ?_, ?_, ?_, ?_, ?_, ?_, ?_⟩ <;> decide +kernel

/-- O42: two states that agree on one core and on nothing else a write shows, and a command of another core. -/
theorem test_meets_core_independence : failed.hw.core .sha1 = (busyCore .md5).hw.core .sha1 ∧
    failed.hw ≠ (busyCore .md5).hw ∧ (∃ t, transact (.write 0 0x21000000) failed = .next t) ∧
    (∃ t, transact (.write 0 0x21000000) (busyCore .md5) = .next t) ∧ commandCore .md5Init ≠ some .sha1 :=
  ⟨rfl, by decide, ⟨_, rfl⟩, ⟨_, rfl⟩, by decide⟩

/-- O46: a legal word next on the host's program, with the turn fixed and with none fixed. -/
theorem test_meets_a_step_runs_the_command : decode 0x31000000 = .ok .sha256Compress ∧
    (State.reset.withFetchWord 32 0x31000000).program = [.issue (.write 0 0x31000000)] ∧
    (State.reset.withFetchWord 32 0x31000000).schedule = [.host] ∧
    (running [.issue (.write 0 0x31000000)]).schedule = [] ∧
    ∀ u, ((running [.issue (.write 0 0x31000000)]).hw.core u).busy = false := by
  refine ⟨rfl, rfl, rfl, rfl, ?_⟩; intro u; cases u <;> rfl

/-- O47: a poll that goes on and a poll that ends. -/
theorem test_meets_waitclr :
    (after (step { busyCore .md5 with program := [.waitClr 1 1], schedule := [.host] })).program = [.waitClr 1 1] ∧
    (after (step { State.reset with program := [.waitClr 1 1], schedule := [.host] })).program = [] := by decide

/-- O50: the record without an error and with one. -/
theorem test_meets_cause_recorded : Hw.reset.causeRecorded ∧ failed.hw.causeRecorded ∧
    (∃ t, step { failed with program := [.issue (.write 4 0)] } = .next t) :=
  ⟨⟨fun _ => rfl, fun h => absurd h (by decide)⟩, ⟨fun h => absurd h (by decide), fun _ => by decide⟩, ⟨_, rfl⟩⟩

/-- O51: a busy core still busy after the host's read, and idle after its own step, with no Reset to come. -/
theorem test_meets_completed_compression :
    let s : State := { busyCore .sha1 with program := [.issue (.read 1)], schedule := [.host, .core .sha1] }
    (s.hw.core .sha1).busy = true ∧ NoReset s ∧
    (∃ t, Reaches 1 s t ∧ (t.hw.core .sha1).busy = true) ∧
    (∃ t, Reaches 2 s t ∧ (t.hw.core .sha1).busy = false) ∧
    (∀ k < 2, ∀ r, Reaches k s r → (r.hw.core .sha1).busy = true) := by
  refine ⟨rfl, ?_, ⟨_, rfl, rfl⟩, ⟨_, rfl, rfl⟩, ?_⟩
  · intro op ho; simp at ho; subst ho; rfl
  intro k hk r h
  interval_cases k <;> (cases h; rfl)

/-- O52, O53: a busy core behind turns of others, and a program whose polls wait for busy bits. -/
theorem test_meets_progress :
    ((({ busyCore .md5 with schedule := [.host, .core .sha1] } : State).hw.core .md5).busy = true) ∧
    PollsOnlyBusy (running [.issue (.write 0 0x11000000), waitIdle .md5, .issue (.read 0x50)]) := by
  refine ⟨rfl, ?_⟩
  intro op ho a m h
  subst h
  simp [running, waitIdle] at ho
  obtain ⟨rfl, rfl⟩ := ho
  decide

/-- O54: the tail lengths at which one final block turns into two. -/
theorem test_meets_padding : (List.replicate 55 (0 : Byte)).length < 64 ∧ (List.replicate 56 (0 : Byte)).length < 64 ∧
    (List.replicate 63 (0 : Byte)).length < 64 := by decide

/-- O55: an input in two chunks that is taken, and one that is refused. -/
theorem test_meets_chunks : tooLong .sha1 [[0x61], [0x62, 0x63]].flatten.length = false ∧
    ∃ chunks : List (List Byte), tooLong .sha1 chunks.flatten.length = true := by
  refine ⟨rfl, ?_⟩
  have h : ∀ n, 2 ^ 61 ≤ n → ∃ chunks : List (List Byte), tooLong .sha1 chunks.flatten.length = true := by
    intro n hn
    exact ⟨[List.replicate n 0], by simpa [tooLong] using hn⟩
  exact h _ (le_refl _)

/-- O56: the contexts that take no more input. -/
theorem test_meets_misuse :
    ({ alg := .md5, tail := [], total := 0, phase := .finalizing } : DigestCtx).phase = .finalizing ∧
    ({ alg := .md5, tail := [], total := 0, phase := .done } : DigestCtx).phase = .done := ⟨rfl, rfl⟩

/-- Where a run of n steps leads. -/
def runOf (n : Nat) (s : State) : State := after (Host.Core.run Sys2Proof.core n s)

/-- A run leads where `runOf` says, when it goes on. -/
theorem reaches_runOf (n : Nat) (s : State) : Reaches n s (runOf n s) := by
  induction n generalizing s with
  | zero => rfl
  | succ n ih =>
    obtain ⟨r, hr, -⟩ := step_effect s
    have h : runOf (n + 1) s = runOf n r := by
      simp only [runOf, Host.Core.run]
      rw [show Host.Core.step Sys2Proof.core s = .next r from hr]
    rw [h]; exact reaches_succ.2 ⟨r, hr, ih r⟩

/-- The operations of an MD5 digest of "abc" in two chunks. -/
def md5Ops : List HostOp :=
  match digestRun .md5 [[0x61], [0x62, 0x63]] with
  | .ok r => r.2
  | .error _ => []

/-- O58: the digest of "abc" in two chunks, run to its end. -/
theorem test_meets_digest_run : (∃ c, digestRun .md5 [[0x61], [0x62, 0x63]] = .ok (c, md5Ops)) ∧
    Reaches 30 (running md5Ops) (runOf 30 (running md5Ops)) ∧ (runOf 30 (running md5Ops)).program = [] :=
  ⟨⟨_, rfl⟩, reaches_runOf _ _, by decide +kernel⟩

/-- O59: the same run with an INIT of another core and a read before it, in an interleaving, to its end. -/
theorem test_meets_interleaved_run :
    (∀ op ∈ [HostOp.issue (.write 0 0x20000000), .issue (.read 1)], op.foreign .md5 = true) ∧
    Merged md5Ops [.issue (.write 0 0x20000000), .issue (.read 1)]
      (.issue (.write 0 0x20000000) :: .issue (.read 1) :: md5Ops) ∧
    (runOf 32 (running (.issue (.write 0 0x20000000) :: .issue (.read 1) :: md5Ops))).program = [] := by
  refine ⟨by decide, ?_, by decide +kernel⟩
  refine .right _ _ _ _ (.right _ _ _ _ ?_)
  have h : ∀ l : List HostOp, Merged l [] l := by
    intro l; induction l with
    | nil => exact .nil
    | cons op l ih => exact .left _ _ _ _ ih
  exact h md5Ops

end Sys2Proof.Tests
end

section
/-! SUPPORT. The word a decoded command came from (30_encoding.md R81 to R86). -/

namespace Sys2Proof

/-- A word is its four fields, UNIT first (R81). -/
theorem word_eq_fields (v : Word) :
    v = (unitField v ++ opField v ++ rsvField v ++ amtField v : BitVec (4 + 4 + 19 + 5)) := by
  apply word_ext; intro i hi
  simp only [unitField, opField, rsvField, amtField, BitVec.getLsbD_append, BitVec.getLsbD_extractLsb']
  interval_cases i <;> simp

/-- A word with RSV = 0 is put together from its other three fields. -/
theorem cmd32_of_fields {v : Word} (h : rsvField v = 0) :
    cmd32 (unitField v).toNat (opField v).toNat (amtField v).toNat = v := by
  have hv := word_eq_fields v
  rw [h] at hv
  simpa [cmd32] using hv.symm

theorem withoutAmount_ok {n : Nat} {i j : Instr} (h : withoutAmount n i = .ok j) : n = 0 ∧ j = i := by
  unfold withoutAmount at h
  split at h
  · exact ⟨‹_›, (Except.ok.inj h).symm⟩
  · cases h

/-- A command read from UNIT, OP and AMT is encoded with the same three. -/
theorem encode_of_decodeUnitOp {unit op n : Nat} {i : Instr} (h : decodeUnitOp unit op n = .ok i) :
    encode i = cmd32 unit op n := by
  unfold decodeUnitOp at h
  split at h
  case h_1 => cases h; rfl
  case h_2 => cases h; rfl
  case h_10 => cases h
  all_goals obtain ⟨rfl, rfl⟩ := withoutAmount_ok h; rfl

/-- No second word spells a command (R85, R86). -/
theorem encode_of_decode {v : Word} {i : Instr} (h : decode v = .ok i) : encode i = v := by
  unfold decode at h
  split at h
  · rename_i hr
    rw [encode_of_decodeUnitOp h, cmd32_of_fields hr]
  · cases h

end Sys2Proof
end

section
/-! SUPPORT. What one core's registers become under a command, a write, a transaction, a completion and a step, as
functions of that core's registers alone (10_state.md R34, R35). -/

namespace Sys2Proof.Machine

/-! ### A command -/

@[simp] theorem initInstr_ne_compressInstr (u v : CoreId) : initInstr u ≠ compressInstr v := by
  cases u <;> cases v <;> decide

@[simp] theorem compressInstr_ne_initInstr (u v : CoreId) : compressInstr u ≠ initInstr v :=
  (initInstr_ne_compressInstr v u).symm

/-- Core U's registers after a command. -/
def regsAfterCommand (u : CoreId) (i : Instr) (c : CoreRegs (stateLen u)) : CoreRegs (stateLen u) :=
  if c.busy then c
  else if i = initInstr u then { c with h := iv u }
  else if i = compressInstr u then { c with busy := true }
  else c

theorem regsAfterCommand_busy {u : CoreId} {c : CoreRegs (stateLen u)} (hb : c.busy = true) (i : Instr) :
    regsAfterCommand u i c = c := by simp [regsAfterCommand, hb]

theorem regsAfterCommand_init {u : CoreId} {c : CoreRegs (stateLen u)} (hb : c.busy = false) :
    regsAfterCommand u (initInstr u) c = { c with h := iv u } := by simp [regsAfterCommand, hb]

theorem regsAfterCommand_compress {u : CoreId} {c : CoreRegs (stateLen u)} (hb : c.busy = false) :
    regsAfterCommand u (compressInstr u) c = { c with busy := true } := by simp [regsAfterCommand, hb]

/-- A command of another core, or of none, leaves the registers alone. -/
theorem regsAfterCommand_other {u : CoreId} {i : Instr} (hi : commandCore i ≠ some u) (c : CoreRegs (stateLen u)) :
    regsAfterCommand u i c = c := by
  have hinit : i ≠ initInstr u := by rintro rfl; simp at hi
  have hcompress : i ≠ compressInstr u := by rintro rfl; simp at hi
  simp [regsAfterCommand, hinit, hcompress]

@[simp] theorem regsAfterCommand_blk (u : CoreId) (i : Instr) (c : CoreRegs (stateLen u)) :
    (regsAfterCommand u i c).blk = c.blk := by
  unfold regsAfterCommand; split_ifs <;> rfl

theorem regsAfterCommand_compress_h (u : CoreId) (c : CoreRegs (stateLen u)) :
    (regsAfterCommand u (compressInstr u) c).h = c.h := by
  cases hb : c.busy with
  | true => rw [regsAfterCommand_busy hb]
  | false => rw [regsAfterCommand_compress hb]

theorem regsAfterCommand_init_busy (u : CoreId) (c : CoreRegs (stateLen u)) :
    (regsAfterCommand u (initInstr u) c).busy = c.busy := by
  cases hb : c.busy with
  | true => rw [regsAfterCommand_busy hb, hb]
  | false => rw [regsAfterCommand_init hb, hb]

theorem commandEffect_regs {i : Instr} {hw g : Hw} (he : CommandEffect i hw g) (u : CoreId) :
    g.core u = regsAfterCommand u i (hw.core u) := by
  cases he with
  | rot w hi =>
    rw [regsAfterCommand_other (by simp [hi])]; cases u <;> rfl
  | busy v hi hb =>
    rw [raise_core]
    by_cases huv : u = v
    · subst huv; rw [regsAfterCommand_busy hb]
    · rw [regsAfterCommand_other (by simpa [hi] using Ne.symm huv)]
  | init v hi hb =>
    subst hi
    by_cases huv : u = v
    · subst huv; rw [core_setCore_self, regsAfterCommand_init hb]
    · rw [core_setCore_other _ _ huv, regsAfterCommand_other (by simpa using Ne.symm huv)]
  | issue v hi hb =>
    subst hi
    by_cases huv : u = v
    · subst huv; rw [core_setCore_self, regsAfterCommand_compress hb]
    · rw [core_setCore_other _ _ huv, regsAfterCommand_other (by simpa using Ne.symm huv)]

theorem exec_regs {i : Instr} {s t : State} (h : exec i s = .next t) (u : CoreId) :
    t.hw.core u = regsAfterCommand u i (s.hw.core u) := by
  obtain ⟨g, hg, he⟩ := exec_effect i s
  rw [h] at hg; cases hg
  exact commandEffect_regs he u

/-! ### A transaction -/

/-- A write that goes on does to the hardware what `WriteEffect` lists. -/
theorem writeEffect_of_busWrite {a : WordAddr} {v : Word} {s t : State} (h : busWrite a v s = .next t) :
    WriteEffect a v s.hw t.hw := by
  obtain ⟨g, hg, he⟩ := busWrite_effect a v s
  rw [h] at hg; cases hg
  exact he

/-- An effect on core V, forbidden or not, leaves core U alone. -/
theorem unlessBusy_core_other {u v : CoreId} (huv : u ≠ v) (e : ErrorCause)
    (f : CoreRegs (stateLen v) → CoreRegs (stateLen v)) (s : State) :
    (unlessBusy v e f s).hw.core u = s.hw.core u := by
  rcases unlessBusy_cases v e f s with ⟨-, h⟩ | ⟨-, h⟩ <;> rw [h]
  · simp [raiseError]
  · simp [core_setCore_other _ _ huv]

/-- Core U's registers after a bus write. -/
def regsAfterWrite (u : CoreId) (a : WordAddr) (v : Word) (c : CoreRegs (stateLen u)) : CoreRegs (stateLen u) :=
  if c.busy then c
  else
    match targetOf a with
    | .cmd =>
      match decode v with
      | .ok i => regsAfterCommand u i c
      | .error _ => c
    | .blk w k => if w = u then { c with blk := c.blk.setIfInBounds k v } else c
    | .h w i => if w = u then { c with h := c.h.setIfInBounds i v } else c
    | .status | .rotA | .rotB | .rotRes | .unmapped => c

theorem busWrite_regs {a : WordAddr} {v : Word} {s t : State} (h : busWrite a v s = .next t) (u : CoreId) :
    t.hw.core u = regsAfterWrite u a v (s.hw.core u) := by
  cases hb : (s.hw.core u).busy with
  | true =>
    rw [writeEffect_busy (writeEffect_of_busWrite h) u hb]
    simp [regsAfterWrite, hb]
  | false =>
    simp only [regsAfterWrite, hb]
    cases ht : targetOf a with
    | cmd =>
      rw [busWrite_cmd ht] at h
      cases hd : decode v with
      | ok i => rw [runCommand_ok hd] at h; simpa using exec_regs h u
      | error e =>
        rw [runCommand_illegal (by simp [hd])] at h
        cases h; simp [raiseError]
    | status =>
      rw [busWrite_status ht] at h; cases h
      unfold writeStatus; split <;> simp
    | rotA => rw [busWrite_rotA ht] at h; cases h; cases u <;> rfl
    | rotB => rw [busWrite_rotB ht] at h; cases h; cases u <;> rfl
    | rotRes => rw [busWrite_rotRes ht] at h; cases h; simp [raiseError]
    | unmapped => rw [busWrite_unmapped ht] at h; cases h; simp [raiseError]
    | blk w k =>
      rw [busWrite_blk ht] at h; cases h
      by_cases hw : w = u
      · subst hw; simp [writeBlk, unlessBusy_idle hb, hb]
      · simp [writeBlk, unlessBusy_core_other (Ne.symm hw), hw]
    | h w i =>
      rw [busWrite_h ht] at h; cases h
      by_cases hw : w = u
      · subst hw; simp [writeH, unlessBusy_idle hb, hb]
      · simp [writeH, unlessBusy_core_other (Ne.symm hw), hw]

/-- Core U's registers after a transaction. -/
def regsAfter (u : CoreId) (tr : Transaction) (c : CoreRegs (stateLen u)) : CoreRegs (stateLen u) :=
  match tr with
  | .write a v => regsAfterWrite u a v c
  | .read _ => c
  | .reset => CoreRegs.reset u

@[simp] theorem core_reset (u : CoreId) : Hw.reset.core u = CoreRegs.reset u := by cases u <;> rfl

theorem transact_regs {tr : Transaction} {s t : State} (h : transact tr s = .next t) (u : CoreId) :
    t.hw.core u = regsAfter u tr (s.hw.core u) := by
  cases tr with
  | write a v => exact busWrite_regs h u
  | read a => cases h; rfl
  | reset => cases h; exact core_reset u

theorem regsAfter_busy {u : CoreId} {c : CoreRegs (stateLen u)} (hb : c.busy = true) {tr : Transaction}
    (htr : tr ≠ .reset) : regsAfter u tr c = c := by
  cases tr with
  | write a v => simp [regsAfter, regsAfterWrite, hb]
  | read a => rfl
  | reset => exact absurd rfl htr

/-- What a write can do to the registers of core U, with c those before it. -/
inductive RegsWrite (u : CoreId) (a : WordAddr) (v : Word) (c : CoreRegs (stateLen u)) : CoreRegs (stateLen u) → Prop
  where
  /-- Nothing. -/
  | kept : RegsWrite u a v c c
  /-- A word of the idle core's `BLK_U`. -/
  | blk (k : Nat) (ha : targetOf a = .blk u k) (hb : c.busy = false) :
      RegsWrite u a v c { c with blk := c.blk.setIfInBounds k v }
  /-- A word of the idle core's `H_U`. -/
  | h (i : Nat) (ha : targetOf a = .h u i) (hb : c.busy = false) :
      RegsWrite u a v c { c with h := c.h.setIfInBounds i v }
  /-- An accepted INIT. -/
  | init (ha : a = 0) (hv : v = encode (initInstr u)) (hb : c.busy = false) : RegsWrite u a v c { c with h := iv u }
  /-- An accepted COMPRESS. -/
  | issue (ha : a = 0) (hv : v = encode (compressInstr u)) (hb : c.busy = false) :
      RegsWrite u a v c { c with busy := true }

theorem regsAfterWrite_cases (u : CoreId) (a : WordAddr) (v : Word) (c : CoreRegs (stateLen u)) :
    RegsWrite u a v c (regsAfterWrite u a v c) := by
  cases hb : c.busy with
  | true => simpa [regsAfterWrite, hb] using .kept
  | false =>
    rw [regsAfterWrite, if_neg (by simp [hb])]
    split
    · rename_i ht
      split
      · rename_i i hd
        have hv := (encode_of_decode hd).symm
        by_cases hinit : i = initInstr u
        · subst hinit; rw [regsAfterCommand_init hb]
          exact .init (targetOf_eq_cmd ht) hv hb
        by_cases hcompress : i = compressInstr u
        · subst hcompress; rw [regsAfterCommand_compress hb]
          exact .issue (targetOf_eq_cmd ht) hv hb
        · simpa [regsAfterCommand, hinit, hcompress] using .kept
      · exact .kept
    · split
      · rename_i ht hw; subst hw; exact .blk _ ht hb
      · exact .kept
    · split
      · rename_i ht hw; subst hw; exact .h _ ht hb
      · exact .kept
    all_goals exact .kept

/-! ### A completion -/

/-- Core U's registers after its own turn. -/
def regsAfterTurn (u : CoreId) (c : CoreRegs (stateLen u)) : CoreRegs (stateLen u) :=
  if c.busy then { h := compress u c.h c.blk, blk := c.blk, busy := false } else c

theorem complete_core_self (u : CoreId) (hw : Hw) : (hw.complete u).core u = regsAfterTurn u (hw.core u) := by
  cases hb : (hw.core u).busy with
  | true => simp [complete_busy hb, regsAfterTurn, hb]
  | false => simp [complete_idle hb, regsAfterTurn, hb]

@[simp] theorem coreTurn_hw (u : CoreId) (s : State) : (coreTurn u s).hw = s.hw.complete u := rfl

/-! ### A step -/

/-- The host's turn with a transaction at the head of its program is that transaction. -/
theorem step_issue {s : State} {tr : Transaction} {rest : List HostOp} (hn : nextAgent s = some .host)
    (hp : s.program = .issue tr :: rest) : step s = transact tr { popSchedule s with program := rest } := by
  simp [step, takeTurn, hn, hostTurn, hp]

/-- What a step can do to the hardware: reads, polls and turns with nothing to do leave it alone. -/
inductive HwStep (s : State) : Hw → Prop where
  | kept : HwStep s s.hw
  /-- A core's turn. -/
  | turn (u : CoreId) (hn : nextAgent s = some (.core u)) : HwStep s (s.hw.complete u)
  /-- Reset. -/
  | reset (rest : List HostOp) (hn : nextAgent s = some .host) (hp : s.program = .issue .reset :: rest) :
      HwStep s Hw.reset
  /-- A write. -/
  | write (a : WordAddr) (v : Word) (rest : List HostOp) (t : State) (hn : nextAgent s = some .host)
      (hp : s.program = .issue (.write a v) :: rest)
      (ht : busWrite a v { popSchedule s with program := rest } = .next t) : HwStep s t.hw

theorem step_hw {s t : State} (h : step s = .next t) : HwStep s t.hw := by
  cases step_cases h with
  | ended => exact .kept
  | core u hn => exact .turn u hn
  | idle => exact .kept
  | write a v rest g hn hp => rw [step_issue hn hp] at h; exact .write a v rest _ hn hp h
  | read => exact .kept
  | reset rest hn hp => exact .reset rest hn hp
  | cleared => exact .kept
  | polled => exact .kept

/-- What a step can do to the registers of core U. -/
inductive RegsStep (u : CoreId) (s : State) : CoreRegs (stateLen u) → Prop where
  /-- Nothing. -/
  | kept : RegsStep u s (s.hw.core u)
  /-- The core's completion. -/
  | completed (hn : nextAgent s = some (.core u)) (hb : (s.hw.core u).busy = true) :
      RegsStep u s { h := compress u (s.hw.core u).h (s.hw.core u).blk, blk := (s.hw.core u).blk, busy := false }
  /-- Reset. -/
  | reset (rest : List HostOp) (hn : nextAgent s = some .host) (hp : s.program = .issue .reset :: rest) :
      RegsStep u s (CoreRegs.reset u)
  /-- A write. -/
  | write (a : WordAddr) (v : Word) (rest : List HostOp) (c : CoreRegs (stateLen u)) (hn : nextAgent s = some .host)
      (hp : s.program = .issue (.write a v) :: rest) (hc : RegsWrite u a v (s.hw.core u) c) : RegsStep u s c

theorem hwStep_regs {s : State} {g : Hw} (h : HwStep s g) (u : CoreId) : RegsStep u s (g.core u) := by
  cases h with
  | kept => exact .kept
  | turn v hn =>
    by_cases huv : u = v
    · subst huv
      rw [complete_core_self, regsAfterTurn]
      split
      · rename_i hb; exact .completed hn hb
      · exact .kept
    · rw [complete_core_other _ huv]; exact .kept
  | reset rest hn hp => rw [core_reset]; exact .reset rest hn hp
  | write a v rest r hn hp ht =>
    rw [busWrite_regs ht]; exact .write a v rest _ hn hp (regsAfterWrite_cases u a v _)

theorem step_regs {s t : State} (h : step s = .next t) (u : CoreId) : RegsStep u s (t.hw.core u) :=
  hwStep_regs (step_hw h) u

/-! The writers of each register of core U, among the ways of `RegsStep`. -/

theorem regsStep_blk {u : CoreId} {k : Nat} {s : State} {c : CoreRegs (stateLen u)} (h : RegsStep u s c)
    (hne : c.blk[k]? ≠ (s.hw.core u).blk[k]?) :
    nextAgent s = some .host ∧ ∃ rest, s.program = .issue .reset :: rest ∨
      ∃ a v, s.program = .issue (.write a v) :: rest ∧ targetOf a = .blk u k ∧ (s.hw.core u).busy = false ∧
        c.blk[k]? = some v := by
  cases h with
  | kept => exact absurd rfl hne
  | completed => exact absurd rfl hne
  | reset rest hn hp => exact ⟨hn, rest, .inl hp⟩
  | write a v rest c hn hp hc =>
    cases hc with
    | blk j ha hb =>
      by_cases hjk : j = k
      · subst hjk
        exact ⟨hn, rest, .inr ⟨a, v, hp, ha, hb, by simp [(targetOf_eq_blk ha).1]⟩⟩
      · exact absurd (Vector.getElem?_setIfInBounds_ne hjk) hne
    | _ => exact absurd rfl hne

theorem regsStep_h {u : CoreId} {s : State} {c : CoreRegs (stateLen u)} (h : RegsStep u s c)
    (hne : c.h ≠ (s.hw.core u).h) :
    (nextAgent s = some (.core u) ∧ (s.hw.core u).busy = true ∧
      c.h = compress u (s.hw.core u).h (s.hw.core u).blk) ∨
    (nextAgent s = some .host ∧ ∃ rest,
      (s.program = .issue .reset :: rest ∧ c.h = iv u) ∨
      ((s.hw.core u).busy = false ∧
        ((s.program = .issue (.write 0 (encode (initInstr u))) :: rest ∧ c.h = iv u) ∨
          ∃ a v i, s.program = .issue (.write a v) :: rest ∧ targetOf a = .h u i))) := by
  cases h with
  | kept => exact absurd rfl hne
  | completed hn hb => exact .inl ⟨hn, hb, rfl⟩
  | reset rest hn hp => exact .inr ⟨hn, rest, .inl ⟨hp, rfl⟩⟩
  | write a v rest c hn hp hc =>
    refine .inr ⟨hn, rest, .inr ?_⟩
    cases hc with
    | kept => exact absurd rfl hne
    | blk k ha hb => exact absurd rfl hne
    | h i ha hb => exact ⟨hb, .inr ⟨a, v, i, hp, ha⟩⟩
    | init ha hv hb => subst ha hv; exact ⟨hb, .inl ⟨hp, rfl⟩⟩
    | issue ha hv hb => exact absurd rfl hne

theorem regsStep_busy_rises {u : CoreId} {s : State} {c : CoreRegs (stateLen u)} (h : RegsStep u s c)
    (hidle : (s.hw.core u).busy = false) (hbusy : c.busy = true) :
    nextAgent s = some .host ∧ ∃ rest, s.program = .issue (.write 0 (encode (compressInstr u))) :: rest := by
  cases h with
  | kept => simp [hidle] at hbusy
  | completed => cases hbusy
  | reset => cases hbusy
  | write a v rest c hn hp hc =>
    cases hc with
    | issue ha hv hb => subst ha hv; exact ⟨hn, rest, hp⟩
    | _ => simp [hidle] at hbusy

theorem regsStep_busy_falls {u : CoreId} {s : State} {c : CoreRegs (stateLen u)} (h : RegsStep u s c)
    (hbusy : (s.hw.core u).busy = true) (hidle : c.busy = false) :
    nextAgent s = some (.core u) ∨ (nextAgent s = some .host ∧ ∃ rest, s.program = .issue .reset :: rest) := by
  cases h with
  | kept => simp [hidle] at hbusy
  | completed hn => exact .inl hn
  | reset rest hn hp => exact .inr ⟨hn, rest, hp⟩
  | write a v rest c hn hp hc =>
    cases hc with
    | issue => cases hidle
    | _ => simp [hbusy] at hidle

end Sys2Proof.Machine
end

section
/-! SUPPORT. What a command, a write and a step leave of the ROT32 registers (10_state.md R24 to R26), and of the
registers of the window. -/

namespace Sys2Proof.Machine

theorem commandEffect_rotA {i : Instr} {hw g : Hw} (he : CommandEffect i hw g) : g.rotA = hw.rotA := by
  cases he <;> simp

theorem commandEffect_rotB {i : Instr} {hw g : Hw} (he : CommandEffect i hw g) : g.rotB = hw.rotB := by
  cases he <;> simp

/-- Only a ROT32 command writes ROT_RES. -/
theorem commandEffect_rotRes {i : Instr} {hw g : Hw} (he : CommandEffect i hw g) (hi : commandCore i ≠ none) :
    g.rotRes = hw.rotRes := by
  cases he with
  | rot w hi' => exact absurd hi' hi
  | busy => simp
  | init => simp
  | issue => simp

/-- A command of core U leaves every register of the window but STATUS and `H_U`. -/
theorem commandEffect_registerWord {i : Instr} {hw g : Hw} (he : CommandEffect i hw g) {u : CoreId}
    (hi : commandCore i = some u) {x : Target} (hstatus : x ≠ .status) (hh : ∀ k, x ≠ .h u k) :
    registerWord g x = registerWord hw x := by
  cases x with
  | cmd => rfl
  | status => exact absurd rfl hstatus
  | rotA => exact commandEffect_rotA he
  | rotB => exact commandEffect_rotB he
  | rotRes => exact commandEffect_rotRes he (by simp [hi])
  | blk v k => simp [registerWord, commandEffect_regs he]
  | h v k =>
    have huv : u ≠ v := by rintro rfl; exact hh k rfl
    simp only [registerWord, commandEffect_regs he,
      regsAfterCommand_other (show commandCore i ≠ some v by simpa [hi] using huv)]
  | unmapped => rfl

theorem writeEffect_rotA {a : WordAddr} {v : Word} {hw g : Hw} (he : WriteEffect a v hw g) :
    g.rotA = hw.rotA ∨ (a = 2 ∧ g.rotA = v) := by
  cases he with
  | command i g ha hd he => exact .inl (commandEffect_rotA he)
  | rotA ha => exact .inr ⟨ha, rfl⟩
  | _ => left; simp

theorem writeEffect_rotB {a : WordAddr} {v : Word} {hw g : Hw} (he : WriteEffect a v hw g) :
    g.rotB = hw.rotB ∨ (a = 3 ∧ g.rotB = v) := by
  cases he with
  | command i g ha hd he => exact .inl (commandEffect_rotB he)
  | rotB ha => exact .inr ⟨ha, rfl⟩
  | _ => left; simp

theorem writeEffect_rotRes {a : WordAddr} {v : Word} {hw g : Hw} (he : WriteEffect a v hw g) :
    g.rotRes = hw.rotRes ∨ (a = 0 ∧ ∃ i, decode v = .ok i ∧ commandCore i = none) := by
  cases he with
  | command i g ha hd he =>
    by_cases hi : commandCore i = none
    · exact .inr ⟨ha, i, hd, hi⟩
    · exact .inl (commandEffect_rotRes he hi)
  | _ => left; simp

/-- A register that no completion changes is changed in a step by Reset or by a write of the host. -/
theorem hwStep_changed {β : Type} (reg : Hw → β) {s : State} {g : Hw} (h : HwStep s g)
    (hturn : ∀ u, reg (s.hw.complete u) = reg s.hw) (hne : reg g ≠ reg s.hw) :
    nextAgent s = some .host ∧ ∃ rest, s.program = .issue .reset :: rest ∨
      ∃ a v, s.program = .issue (.write a v) :: rest ∧ WriteEffect a v s.hw g := by
  cases h with
  | kept => exact absurd rfl hne
  | turn u => exact absurd (hturn u) hne
  | reset rest hn hp => exact ⟨hn, rest, .inl hp⟩
  | write a v rest t hn hp ht => exact ⟨hn, rest, .inr ⟨a, v, hp, (writeEffect_of_busWrite ht :)⟩⟩

theorem hwStep_rotA {s : State} {g : Hw} (h : HwStep s g) (hne : g.rotA ≠ s.hw.rotA) :
    nextAgent s = some .host ∧ ∃ rest, s.program = .issue .reset :: rest ∨
      s.program = .issue (.write 2 g.rotA) :: rest := by
  obtain ⟨hn, rest, hp | ⟨a, v, hp, he⟩⟩ := hwStep_changed Hw.rotA h (by simp) hne
  · exact ⟨hn, rest, .inl hp⟩
  · obtain ⟨rfl, rfl⟩ := (writeEffect_rotA he).resolve_left hne
    exact ⟨hn, rest, .inr hp⟩

theorem hwStep_rotB {s : State} {g : Hw} (h : HwStep s g) (hne : g.rotB ≠ s.hw.rotB) :
    nextAgent s = some .host ∧ ∃ rest, s.program = .issue .reset :: rest ∨
      s.program = .issue (.write 3 g.rotB) :: rest := by
  obtain ⟨hn, rest, hp | ⟨a, v, hp, he⟩⟩ := hwStep_changed Hw.rotB h (by simp) hne
  · exact ⟨hn, rest, .inl hp⟩
  · obtain ⟨rfl, rfl⟩ := (writeEffect_rotB he).resolve_left hne
    exact ⟨hn, rest, .inr hp⟩

theorem hwStep_rotRes {s : State} {g : Hw} (h : HwStep s g) (hne : g.rotRes ≠ s.hw.rotRes) :
    nextAgent s = some .host ∧ ∃ rest, s.program = .issue .reset :: rest ∨
      ∃ v i, s.program = .issue (.write 0 v) :: rest ∧ decode v = .ok i ∧ commandCore i = none := by
  obtain ⟨hn, rest, hp | ⟨a, v, hp, he⟩⟩ := hwStep_changed Hw.rotRes h (by simp) hne
  · exact ⟨hn, rest, .inl hp⟩
  · obtain ⟨rfl, i, hd, hi⟩ := (writeEffect_rotRes he).resolve_left hne
    exact ⟨hn, rest, .inr ⟨v, i, hp, hd, hi⟩⟩

end Sys2Proof.Machine
end

section
/-! SUPPORT. The STATUS register bit by bit (10_state.md R36, R37). -/

namespace Sys2Proof.Machine

/-- A read of STATUS returns the STATUS word and changes nothing but the list of values read. -/
theorem transact_read_status (s : State) :
    transact (.read 1) s = .next { s with reads := s.reads ++ [statusWord s.hw] } := rfl

theorem statusWord_getLsbD (hw : Hw) {j : Nat} (hj : j < 32) :
    (statusWord hw).getLsbD j =
      if j = 0 then hw.md5.busy else if j = 1 then hw.sha1.busy else if j = 2 then hw.sha256.busy
      else if j = 8 then hw.err else if 12 ≤ j ∧ j ≤ 15 then hw.ecause.getLsbD (j - 12) else false := by
  simp only [statusWord, BitVec.getLsbD_setWidth, BitVec.getLsbD_append, busy_eq, core_md5, core_sha1, core_sha256]
  interval_cases j <;> simp

end Sys2Proof.Machine
end

section
/-! CERTIFICATES. The statements about the registers and who may change them (10_state.md). -/

namespace Sys2Proof.Machine

/-! ### STATUS and the reset values -/

/-- Settles O11: STATUS is a concatenation of fields, and each of its 32 bits falls in one of them. -/
theorem statusReadsBitByBit : Obligations.StatusReadsBitByBit := fun s =>
  ⟨statusWord s.hw, transact_read_status s, fun _ hj => statusWord_getLsbD s.hw hj⟩

/-- Settles O12: bit 8 alone decides whether the error record is cleared. -/
theorem statusWritesOnlyClearTheError : Obligations.StatusWritesOnlyClearTheError := by
  intro v s
  have hwrite : transact (.write 1 v) s = .next (writeStatus v s) := busWrite_status targetOf_status v s
  constructor <;> intro hv <;> rw [hwrite, writeStatus, hv]
  · rfl
  · rfl

/-- Settles O44, field by field of the reset state. -/
theorem resetStateHoldsTheResetValues : Obligations.ResetStateHoldsTheResetValues := by
  refine ⟨rfl, rfl, rfl, rfl, rfl, rfl, fun u => ?_, rfl, rfl⟩
  show (Hw.reset.core u).blk = _ ∧ (Hw.reset.core u).busy = _
  rw [core_reset]
  exact ⟨rfl, rfl⟩

/-! ### The frame of the core commands -/

/-- Settles O27, from the effect of a command on the window and on each core's registers. -/
theorem coreCommandsTouchTheirOwnCoreAlone : Obligations.CoreCommandsTouchTheirOwnCoreAlone := by
  intro i u s t hi h
  have hregs := exec_regs h
  obtain ⟨g, hg, he⟩ := exec_effect i s
  rw [h] at hg; cases hg
  refine ⟨⟨rfl, rfl, rfl, rfl⟩, fun a => commandEffect_registerWord he hi, fun v huv => ?_, ?_, ?_⟩
  · rw [hregs v, regsAfterCommand_other]
    simpa [hi] using Ne.symm huv
  · rintro rfl; rw [hregs u, regsAfterCommand_compress_h]
  · rintro rfl; rw [hregs u, regsAfterCommand_init_busy]

/-! ### The busy hazard and the independence of the cores -/

/-- Settles O35: a busy core's registers are what `regsAfter` keeps, and a write aimed at them is dropped. -/
theorem aBusyCoreIsFrozen : Obligations.ABusyCoreIsFrozen := by
  intro u s hb
  refine ⟨fun tr t htr h => ?_, fun v hvu => complete_core_other _ (Ne.symm hvu), fun a v ht => ?_⟩
  · rw [transact_regs h, regsAfter_busy hb htr]
  · rcases ht with ⟨k, ht⟩ | ⟨k, ht⟩
    · rw [transact, busWrite_blk ht, writeBlk, unlessBusy_busy hb, raiseError_eq]; rfl
    · rw [transact, busWrite_h ht, writeH, unlessBusy_busy hb, raiseError_eq]; rfl

/-- Settles O42: a core's next registers are `regsAfter` or `regsAfterTurn` of its own. -/
theorem coresShareNoRegisters : Obligations.CoresShareNoRegisters := by
  intro u
  refine ⟨fun tr s s' t t' hc h h' => ?_, fun v s s' hc => ?_, fun i s t hi h => ?_,
    fun v s hvu => complete_core_other _ (Ne.symm hvu)⟩
  · rw [transact_regs h, transact_regs h', hc]
  · rw [coreTurn_hw, coreTurn_hw]
    by_cases huv : u = v
    · subst huv; rw [complete_core_self, complete_core_self, hc]
    · rw [complete_core_other _ huv, complete_core_other _ huv, hc]
  · rw [exec_regs h, regsAfterCommand_other hi]

/-! ### Who may change what -/

/-- Settles O37, from the writers of ROT_A and of ROT_B in a step. -/
theorem rotOperandsChangeOnlyByHostWrites : Obligations.RotOperandsChangeOnlyByHostWrites := fun _ _ h =>
  ⟨hwStep_rotA (step_hw h), hwStep_rotB (step_hw h)⟩

/-- Settles O38, from the writers of ROT_RES in a step. -/
theorem rotResChangesOnlyByRot32Commands : Obligations.RotResChangesOnlyByRot32Commands := fun _ _ h =>
  hwStep_rotRes (step_hw h)

/-- Settles O39: of the ways a step can change a core's registers, a write to `BLK_U[k]` and Reset alone change that
word. -/
theorem blockBufferChangesOnlyByHostWrites : Obligations.BlockBufferChangesOnlyByHostWrites := fun u _ _ _ h =>
  regsStep_blk (step_regs h u)

/-- Settles O40: of the ways a step can change a core's registers, the four of R30 change `H_U`. -/
theorem stateVectorChangesOnlyByItsFourWriters : Obligations.StateVectorChangesOnlyByItsFourWriters := fun u _ _ h =>
  regsStep_h (step_regs h u)

/-- Settles O41, from the ways a step can change a core's registers. -/
theorem busyRisesByCompressAndFallsByCompletion : Obligations.BusyRisesByCompressAndFallsByCompletion := fun u _ _ h =>
  ⟨regsStep_busy_rises (step_regs h u), regsStep_busy_falls (step_regs h u)⟩

end Sys2Proof.Machine
end

section
/-! SUPPORT. The window of registers: what an address names, what a read of it returns, and what a write to one
core's registers leaves of the rest (20_memory.md R54 to R58). -/

namespace Sys2Proof.Machine

/-! ### Addresses -/

theorem offsetOf_of_wordAddrOf {off : Nat} {a : WordAddr} (h : wordAddrOf off = some a) : offsetOf a = off := by
  unfold wordAddrOf at h
  split at h
  · cases h
    simp only [offsetOf, BitVec.toNat_ofNat]
    omega
  · cases h

theorem wordAddrOf_eq_none {off : Nat} : wordAddrOf off = none ↔ off % 4 ≠ 0 ∨ 0x3FC < off := by
  unfold wordAddrOf
  split
  · simp; omega
  · simp; omega

/-- The table of R56, read at a byte offset: each row a range of offsets. -/
def rowOfOffset (off : Nat) : Target :=
  if off = 0x000 then .cmd else if off = 0x004 then .status
  else if off = 0x008 then .rotA else if off = 0x00C then .rotB else if off = 0x010 then .rotRes
  else if 0x100 ≤ off ∧ off ≤ 0x13C then .blk .md5 ((off - 0x100) / 4)
  else if 0x140 ≤ off ∧ off ≤ 0x14C then .h .md5 ((off - 0x140) / 4)
  else if 0x200 ≤ off ∧ off ≤ 0x23C then .blk .sha1 ((off - 0x200) / 4)
  else if 0x240 ≤ off ∧ off ≤ 0x250 then .h .sha1 ((off - 0x240) / 4)
  else if 0x300 ≤ off ∧ off ≤ 0x33C then .blk .sha256 ((off - 0x300) / 4)
  else if 0x340 ≤ off ∧ off ≤ 0x35C then .h .sha256 ((off - 0x340) / 4)
  else .unmapped

/-- The decode by page and word agrees with the table on all 256 word addresses. -/
theorem targetOf_eq_rowOfOffset (a : WordAddr) : targetOf a = rowOfOffset (offsetOf a) := by
  revert a; decide

/-- No other address names the word of `BLK_U` that a names. -/
theorem targetOf_ne_blk {a b : WordAddr} {u : CoreId} {k : Nat} (ha : targetOf a = .blk u k) (hba : b ≠ a) :
    targetOf b ≠ .blk u k := fun hb =>
  hba ((targetOf_eq_blk hb).2.trans (targetOf_eq_blk ha).2.symm)

/-- No other address names the word of `H_U` that a names. -/
theorem targetOf_ne_h {a b : WordAddr} {u : CoreId} {i : Nat} (ha : targetOf a = .h u i) (hba : b ≠ a) :
    targetOf b ≠ .h u i := fun hb =>
  hba ((targetOf_eq_h hb).2.trans (targetOf_eq_h ha).2.symm)

/-! ### Reads -/

theorem registerWord_blk (hw : Hw) (u : CoreId) (k : Nat) :
    registerWord hw (.blk u k) = ((hw.core u).blk[k]?).getD 0 := by
  simp [registerWord, List.getD_eq_getElem?_getD]

theorem registerWord_h (hw : Hw) (u : CoreId) (i : Nat) :
    registerWord hw (.h u i) = ((hw.core u).h[i]?).getD 0 := by
  simp [registerWord, List.getD_eq_getElem?_getD]

theorem getElem?_blk_eq_readValue (s : State) (u : CoreId) {k : Nat} (hk : k < 16) :
    (s.hw.core u).blk[k]? = some (readValue s (.blk u k)) := by
  rw [readValue_register rfl, registerWord_blk, Vector.getElem?_eq_getElem hk, Option.getD_some]

theorem getElem?_h_eq_readValue {s : State} {u : CoreId} {i : Nat} (hi : i < stateLen u)
    (hb : (s.hw.core u).busy = false) : (s.hw.core u).h[i]? = some (readValue s (.h u i)) := by
  rw [readValue_register (t := .h u i) hb, registerWord_h, Vector.getElem?_eq_getElem hi, Option.getD_some]

/-! ### One core's registers replaced -/

theorem busy_setCore {hw : Hw} {u : CoreId} {c : CoreRegs (stateLen u)} (hbusy : c.busy = (hw.core u).busy)
    (v : CoreId) : (hw.setCore u c).busy v = hw.busy v := by
  by_cases hv : v = u
  · subst hv; rw [busy_eq, core_setCore_self, hbusy, busy_eq]
  · rw [busy_eq, core_setCore_other _ _ hv, busy_eq]

/-- A register of the window is kept when core U's registers are replaced, unless it is a word of `BLK_U` or `H_U`
that the new registers hold another value of, or STATUS and `BUSY_U` changes. -/
theorem registerWord_setCore {hw : Hw} {u : CoreId} {c : CoreRegs (stateLen u)} {x : Target}
    (hbusy : c.busy = (hw.core u).busy) (hblk : ∀ k, x = .blk u k → c.blk[k]? = (hw.core u).blk[k]?)
    (hh : ∀ i, x = .h u i → c.h[i]? = (hw.core u).h[i]?) :
    registerWord (hw.setCore u c) x = registerWord hw x := by
  cases x with
  | cmd => rfl
  | status => simp [registerWord, statusWord, busy_setCore hbusy]
  | rotA => simp [registerWord]
  | rotB => simp [registerWord]
  | rotRes => simp [registerWord]
  | blk v k =>
    rw [registerWord_blk, registerWord_blk]
    by_cases hv : v = u
    · subst hv; rw [core_setCore_self, hblk k rfl]
    · rw [core_setCore_other _ _ hv]
  | h v i =>
    rw [registerWord_h, registerWord_h]
    by_cases hv : v = u
    · subst hv; rw [core_setCore_self, hh i rfl]
    · rw [core_setCore_other _ _ hv]
  | unmapped => rfl

/-- An accepted write to a word of `BLK_U` leaves every register at another address. -/
theorem registerWord_writeBlk {a b : WordAddr} {u : CoreId} {k : Nat} (ha : targetOf a = .blk u k) (hba : b ≠ a)
    {s : State} (hb : (s.hw.core u).busy = false) (v : Word) :
    registerWord (writeBlk u k v s).hw (targetOf b) = registerWord s.hw (targetOf b) := by
  rw [writeBlk, unlessBusy_idle hb, mapHw_hw]
  refine registerWord_setCore rfl (fun j hj => ?_) (fun _ _ => rfl)
  have hkj : k ≠ j := by rintro rfl; exact targetOf_ne_blk ha hba hj
  exact Vector.getElem?_setIfInBounds_ne hkj

/-- An accepted write to a word of `H_U` leaves every register at another address. -/
theorem registerWord_writeH {a b : WordAddr} {u : CoreId} {i : Nat} (ha : targetOf a = .h u i) (hba : b ≠ a)
    {s : State} (hb : (s.hw.core u).busy = false) (v : Word) :
    registerWord (writeH u i v s).hw (targetOf b) = registerWord s.hw (targetOf b) := by
  rw [writeH, unlessBusy_idle hb, mapHw_hw]
  refine registerWord_setCore rfl (fun _ _ => rfl) (fun j hj => ?_)
  have hij : i ≠ j := by rintro rfl; exact targetOf_ne_h ha hba hj
  exact Vector.getElem?_setIfInBounds_ne hij

end Sys2Proof.Machine
end

section
/-! SUPPORT. Bytes, block words and message words (20_memory.md R60, R61). -/

namespace Sys2Proof.Machine

theorem getElem?_blockWords (b : List Byte) {k : Nat} (hk : k < 16) :
    (blockWords b).toList[k]? = some (blockWord b k) := by
  interval_cases k <;> rfl

/-- Lane j of word k holds byte 4k + j of the block (R60). -/
theorem lane_blockWord (b : List Byte) (k : Nat) {j : Nat} (hj : j < 4) :
    lane (blockWord b k) j = b.getD (4 * k + j) 0 := by
  obtain ⟨h0, h1, h2, h3⟩ := lane_wordLe (b.getD (4 * k) 0) (b.getD (4 * k + 1) 0) (b.getD (4 * k + 2) 0)
    (b.getD (4 * k + 3) 0)
  interval_cases j
  · exact h0
  · exact h1
  · exact h2
  · exact h3

/-- Swapping a little-endian word gives the big-endian word of the same bytes (R61). -/
theorem bswap32_wordLe (b0 b1 b2 b3 : Byte) : bswap32 (wordLe b0 b1 b2 b3) = wordBe b0 b1 b2 b3 := by
  obtain ⟨h0, h1, h2, h3⟩ := lane_wordLe b0 b1 b2 b3
  rw [bswap32, h0, h1, h2, h3]

end Sys2Proof.Machine
end

section
/-! SUPPORT. A compression in flight: what completions and steps make of the core's registers until it is idle
(20_memory.md R66, R67). -/

namespace Sys2Proof.Machine

/-- Each core's registers after core U's turn. -/
theorem complete_core (u v : CoreId) (hw : Hw) :
    (hw.complete u).core v = if v = u then regsAfterTurn v (hw.core v) else hw.core v := by
  split
  · rename_i h; subst h; exact complete_core_self v hw
  · rename_i h; exact complete_core_other hw h

theorem complete_comm {u v : CoreId} (huv : u ≠ v) (hw : Hw) :
    (hw.complete v).complete u = (hw.complete u).complete v := by
  refine hw_ext (by simp) (by simp) (by simp) (fun w => ?_) (by simp) (by simp)
  simp only [complete_core]
  split_ifs with hu hv
  · exact absurd (hu.symm.trans hv) huv
  · rfl
  · rfl
  · rfl

/-- The host's program only ever loses operations from its front. -/
theorem step_program_suffix {s t : State} (h : step s = .next t) : t.program <:+ s.program := by
  have popped {op : HostOp} {rest : List HostOp} (hp : s.program = op :: rest) : rest <:+ s.program :=
    hp ▸ List.suffix_cons op rest
  cases step_cases h with
  | ended => exact List.suffix_rfl
  | core => exact List.suffix_rfl
  | idle => exact List.suffix_rfl
  | write a v rest g hn hp => exact popped hp
  | read a rest hn hp => exact popped hp
  | reset rest hn hp => exact popped hp
  | cleared a mask rest hn hp => exact popped hp
  | polled => exact List.suffix_rfl

theorem step_noReset {s t : State} (h : step s = .next t) (hs : NoReset s) : NoReset t := fun op hop =>
  hs op ((step_program_suffix h).subset hop)

/-- Short of a Reset, a step leaves a busy core alone or completes it. -/
theorem hwStep_busy_regs {u : CoreId} {s : State} {g : Hw} (h : HwStep s g) (hb : (s.hw.core u).busy = true)
    (hs : NoReset s) : g.core u = s.hw.core u ∨ g.core u = regsAfterTurn u (s.hw.core u) := by
  cases h with
  | kept => exact .inl rfl
  | turn v =>
    rw [complete_core]
    split
    · exact .inr rfl
    · exact .inl rfl
  | reset rest hn hp => exact absurd (hs (.issue .reset) (by simp [hp])) (by decide)
  | write a v rest r hn hp ht => exact .inl (writeEffect_busy (writeEffect_of_busWrite ht) u hb)

/-- Until a busy core is first idle its registers stand still; then they are those of its completion. -/
theorem reaches_busy_regs {u : CoreId} {n : Nat} {s t : State} (hb : (s.hw.core u).busy = true) (hs : NoReset s)
    (h : Reaches n s t) (hearlier : ∀ k < n, ∀ r, Reaches k s r → (r.hw.core u).busy = true) :
    t.hw.core u = s.hw.core u ∨ t.hw.core u = regsAfterTurn u (s.hw.core u) := by
  induction n generalizing s with
  | zero => rw [reaches_zero.1 h]; exact .inl rfl
  | succ n ih =>
    obtain ⟨r, hr, hrt⟩ := reaches_succ.1 h
    have hnext : ∀ k < n, ∀ q, Reaches k r q → (q.hw.core u).busy = true := fun k hk q hq =>
      hearlier (k + 1) (by omega) q (reaches_succ.2 ⟨r, hr, hq⟩)
    rcases hwStep_busy_regs (step_hw hr) hb hs with hkept | hdone
    · rw [← hkept]
      exact ih (hkept ▸ hb) (step_noReset hr hs) hrt hnext
    · cases n with
      | zero => rw [reaches_zero.1 hrt]; exact .inr hdone
      | succ n =>
        have hbusy := hnext 0 (by omega) r (reaches_zero.2 rfl)
        simp [hdone, regsAfterTurn, hb] at hbusy

end Sys2Proof.Machine
end

section
/-! CERTIFICATES. The statements about the window, the byte order and the completion of a compression
(20_memory.md). -/

namespace Sys2Proof.Machine

/-- Settles O51: along the run the core's registers are those it was issued with or those of its completion, and
which of the two is told by `BUSY_U`. -/
theorem aCompletedCompressionIsOfTheIssuedOperands : Obligations.ACompletedCompressionIsOfTheIssuedOperands := by
  intro u s t n hb hs h hearlier
  rcases reaches_busy_regs hb hs h hearlier with hkept | hdone
  · exact ⟨fun _ => hkept, fun hidle => absurd (hkept ▸ hb) (by simp [hidle])⟩
  · rw [regsAfterTurn, if_pos hb] at hdone
    have hidle : (t.hw.core u).busy = false := by rw [hdone]
    have hH : (t.hw.core u).h = compress u (s.hw.core u).h (s.hw.core u).blk := by rw [hdone]
    refine ⟨fun hbusy => absurd hbusy (by simp [hidle]), fun _ => ⟨by rw [hdone], hH, fun i hi => ?_⟩⟩
    refine ⟨_, readValue t (.h u i), rfl, ?_, ?_⟩
    · rw [busRead, targetOf_hAddr u hi]; rfl
    · rw [← hH, getElem?_h_eq_readValue hi hidle]

/-- Settles O9, by the table of R56 read at the offset of the word address. -/
theorem theAddressMapIsR55 : Obligations.TheAddressMapIsR55 := by
  refine ⟨fun off => wordAddrOf_eq_none, fun off a h => ?_⟩
  have hoff := offsetOf_of_wordAddrOf h
  exact ⟨hoff, hoff ▸ targetOf_eq_rowOfOffset a⟩

/-- Settles O10, target by target. -/
theorem readsReturnTheRegisterAndChangeNone : Obligations.ReadsReturnTheRegisterAndChangeNone := by
  intro a s
  refine ⟨readValue s (targetOf a), if readsDraw s.hw (targetOf a) then s.draws + 1 else s.draws, rfl, ?_⟩
  cases ht : targetOf a with
  | blk u k => exact ⟨getElem?_blk_eq_readValue s u (targetOf_eq_blk ht).1, rfl⟩
  | h u i =>
    cases hb : (s.hw.core u).busy with
    | true => simp [readValue, readsDraw, busy_eq, hb]
    | false => simp [getElem?_h_eq_readValue (targetOf_eq_h ht).1 hb, readsDraw, busy_eq, hb]
  | _ => exact ⟨rfl, rfl⟩

/-- Settles O13, target by target. -/
theorem writesActAsTheirRegisterSays : Obligations.WritesActAsTheirRegisterSays := by
  intro a v s failed
  have hfailed (c : ErrorCause) : raiseError c s = failed c.code := raiseError_eq c s
  cases ht : targetOf a with
  | cmd =>
    show busWrite a v s = _
    rw [busWrite_cmd ht]
    cases hd : decode v with
    | ok i => exact runCommand_ok hd s
    | error e => rw [runCommand_illegal (by simp [hd]), hfailed]; rfl
  | status => exact busWrite_status ht v s
  | rotA => exact busWrite_rotA ht v s
  | rotB => exact busWrite_rotB ht v s
  | rotRes => exact (busWrite_rotRes ht v s).trans (congrArg _ (hfailed _))
  | unmapped => exact (busWrite_unmapped ht v s).trans (congrArg _ (hfailed _))
  | blk u k =>
    refine ⟨_, busWrite_blk ht v s, ?_⟩
    cases hb : (s.hw.core u).busy with
    | true => rw [if_pos rfl, writeBlk, unlessBusy_busy hb, hfailed]; rfl
    | false =>
      refine ⟨?_, ?_, fun b hba => registerWord_writeBlk ht hba hb v⟩ <;> rw [writeBlk, unlessBusy_idle hb]
      · exact ⟨rfl, rfl, rfl, rfl⟩
      · simp [(targetOf_eq_blk ht).1]
  | h u i =>
    refine ⟨_, busWrite_h ht v s, ?_⟩
    cases hb : (s.hw.core u).busy with
    | true => rw [if_pos rfl, writeH, unlessBusy_busy hb, hfailed]; rfl
    | false =>
      refine ⟨?_, ?_, fun b hba => registerWord_writeH ht hba hb v⟩ <;> rw [writeH, unlessBusy_idle hb]
      · exact ⟨rfl, rfl, rfl, rfl⟩
      · simp [(targetOf_eq_h ht).1]

/-- Settles O31: word k of the block buffer is the little-endian word of its four bytes. -/
theorem blockBytesBecomeMessageWords : Obligations.BlockBytesBecomeMessageWords := by
  intro b k hk
  have hword := getElem?_blockWords b hk
  refine ⟨hword, ?_, fun j hj => ?_⟩
  · rw [wordsSwapped, List.getElem?_map, hword, Option.map_some, blockWord, bswap32_wordLe]
  · rw [List.getD_eq_getElem?_getD, hword, Option.getD_some, lane_blockWord b k hj]

/-- Settles O43: each completion touches its own core's registers alone. -/
theorem completionsOfDifferentCoresCommute : Obligations.CompletionsOfDifferentCoresCommute := fun _ _ s huv =>
  congrArg (fun hw => { s with hw := hw }) (complete_comm huv s.hw)

end Sys2Proof.Machine
end

section
/-! SUPPORT. The fields of a command word and what they decode to (30_encoding.md R81 to R87). -/

namespace Sys2Proof

open Laws.EncodeFields (unitOf opOf amtOf cmd32_fields)

/-! ### From a command to its word -/

/-- The word of every command the encoding can spell holds that command's fields. -/
theorem encode_fields (i : Instr) : Laws.EncodeFields.Statement i := by
  cases i with
  | rotl n => exact Laws.EncodeFields.rotl n
  | rotr n => exact Laws.EncodeFields.rotr n
  | add => exact Laws.EncodeFields.add
  | md5Init => exact Laws.EncodeFields.md5Init
  | md5Compress => exact Laws.EncodeFields.md5Compress
  | sha1Init => exact Laws.EncodeFields.sha1Init
  | sha1Compress => exact Laws.EncodeFields.sha1Compress
  | sha256Init => exact Laws.EncodeFields.sha256Init
  | sha256Compress => exact Laws.EncodeFields.sha256Compress

/-- The fields of a command name no other command. -/
theorem decodeUnitOp_fields (i : Instr) : decodeUnitOp (unitOf i).toNat (opOf i).toNat (amtOf i) = .ok i := by
  cases i <;> rfl

/-- A word with RSV = 0 is decoded from its other three fields. -/
theorem decode_of_rsv_zero {v : Word} (h : rsvField v = 0) :
    decode v = decodeUnitOp (unitField v).toNat (opField v).toNat (amtField v).toNat := if_pos h

theorem decode_encode {i : Instr} (h : i.wellFormed = true) : decode (encode i) = .ok i := by
  obtain ⟨hunit, hop, hrsv, hamt⟩ := encode_fields i h
  rw [decode_of_rsv_zero hrsv, hunit, hop, hamt, decodeUnitOp_fields]

/-! ### From a word to its command -/

/-- A rotate read from the fields takes the amount that stands there, and no other command has one. -/
theorem wellFormed_of_decodeUnitOp {unit op n : Nat} {i : Instr} (h : decodeUnitOp unit op n = .ok i) (hn : n < 32) :
    i.wellFormed = true := by
  unfold decodeUnitOp at h
  split at h
  case h_1 => cases h; exact decide_eq_true hn
  case h_2 => cases h; exact decide_eq_true hn
  case h_10 => cases h
  all_goals obtain ⟨-, rfl⟩ := withoutAmount_ok h; rfl

theorem wellFormed_of_decode {v : Word} {i : Instr} (h : decode v = .ok i) : i.wellFormed = true := by
  unfold decode at h
  split at h
  · exact wellFormed_of_decodeUnitOp h (amtField v).isLt
  · cases h

/-! ### The legal words -/

theorem withoutAmount_isOk {n : Nat} {i : Instr} : (∃ j, withoutAmount n i = .ok j) ↔ n = 0 := by
  constructor
  · rintro ⟨j, h⟩; exact (withoutAmount_ok h).1
  · rintro rfl; exact ⟨i, rfl⟩

/-- R85's condition on UNIT, OP and AMT. -/
def LegalUnitOp (unit op n : Nat) : Prop :=
  (unit = 0 ∧ (op = 0 ∨ op = 1)) ∨ (unit = 0 ∧ op = 2 ∧ n = 0) ∨
    ((unit = 1 ∨ unit = 2 ∨ unit = 3) ∧ (op = 0 ∨ op = 1) ∧ n = 0)

theorem decodeUnitOp_isOk {unit op n : Nat} : (∃ i, decodeUnitOp unit op n = .ok i) ↔ LegalUnitOp unit op n := by
  unfold decodeUnitOp LegalUnitOp
  split
  case h_1 => simp
  case h_2 => simp
  case h_10 =>
    refine iff_of_false (by simp) ?_
    rintro (⟨rfl, rfl | rfl⟩ | ⟨rfl, rfl, -⟩ | ⟨rfl | rfl | rfl, rfl | rfl, -⟩) <;> contradiction
  all_goals rw [withoutAmount_isOk]; omega

theorem decode_isOk {v : Word} :
    (∃ i, decode v = .ok i) ↔
      rsvField v = 0 ∧ LegalUnitOp (unitField v).toNat (opField v).toNat (amtField v).toNat := by
  by_cases hr : rsvField v = 0
  · rw [decode_of_rsv_zero hr, decodeUnitOp_isOk]; simp [hr]
  · rw [decode, if_neg hr]
    exact iff_of_false (by simp) fun h => hr h.1

/-- The reserved encodings of R88 spell no command. -/
theorem decode_ne_ok_of_reserved {v : Word}
    (h : 4 ≤ (unitField v).toNat ∨ rsvField v ≠ 0 ∨ ((unitField v).toNat = 0 ∧ 3 ≤ (opField v).toNat) ∨
      (1 ≤ (unitField v).toNat ∧ 2 ≤ (opField v).toNat) ∨
      (((unitField v).toNat ≠ 0 ∨ (opField v).toNat = 2) ∧ amtField v ≠ 0)) :
    ¬ ∃ i, decode v = .ok i := by
  rw [decode_isOk]
  rintro ⟨hrsv, hlegal⟩
  unfold LegalUnitOp at hlegal
  rcases h with hunit | hrsv' | hop | hop | ⟨hcommand, hamt⟩
  · omega
  · exact hrsv' hrsv
  · omega
  · omega
  · have hamt' : (amtField v).toNat ≠ 0 := fun h0 => hamt (BitVec.eq_of_toNat_eq h0)
    omega

/-! ### The rows of the opcode map -/

/-- The mask of the two rotate rows takes the amount away. -/
theorem cmd32_and_rotateMask (unit op n : Nat) : cmd32 unit op n &&& 0xFFFFFFE0 = cmd32 unit op 0 := by
  apply word_ext; intro i hi
  simp only [cmd32, BitVec.getLsbD_and, BitVec.getLsbD_append]
  interval_cases i <;> simp

/-- The mask of the two rotate rows leaves UNIT, OP and RSV. -/
theorem fields_and_rotateMask (v : Word) :
    unitField (v &&& 0xFFFFFFE0) = unitField v ∧ opField (v &&& 0xFFFFFFE0) = opField v ∧
    rsvField (v &&& 0xFFFFFFE0) = rsvField v := by
  simp only [unitField, opField, rsvField, BitVec.extractLsb'_and]
  exact ⟨BitVec.and_allOnes, BitVec.and_allOnes, BitVec.and_allOnes⟩

theorem amtField_toNat (v : Word) : (amtField v).toNat = v.toNat % 32 := by
  simp [amtField]

/-- A word that matches a rotate row has the row's UNIT and OP, and any amount. -/
theorem decode_of_and_rotateMask {v : Word} {unit op : Nat} (h : v &&& 0xFFFFFFE0 = cmd32 unit op 0) :
    decode v = decodeUnitOp (BitVec.ofNat 4 unit).toNat (BitVec.ofNat 4 op).toNat (v.toNat % 32) := by
  obtain ⟨hunit, hop, hrsv⟩ := fields_and_rotateMask v
  obtain ⟨hunit', hop', hrsv', -⟩ := cmd32_fields unit op 0 (by decide)
  rw [h] at hunit hop hrsv
  rw [decode_of_rsv_zero (hrsv ▸ hrsv'), ← hunit, ← hop, hunit', hop', amtField_toNat]

theorem decode_rotlRow {v : Word} (h : v &&& 0xFFFFFFE0 = 0x00000000) : decode v = .ok (.rotl (v.toNat % 32)) :=
  decode_of_and_rotateMask (unit := 0) (op := 0) h

theorem decode_rotrRow {v : Word} (h : v &&& 0xFFFFFFE0 = 0x01000000) : decode v = .ok (.rotr (v.toNat % 32)) :=
  decode_of_and_rotateMask (unit := 0) (op := 1) h

theorem encode_matches_row (i : Instr) : ∃ r ∈ opcodeMap, encode i &&& r.mask = r.pattern := by
  cases i with
  | rotl n => exact ⟨⟨"ROTL", 0x00000000, 0xFFFFFFE0⟩, by decide, cmd32_and_rotateMask 0 0 n⟩
  | rotr n => exact ⟨⟨"ROTR", 0x01000000, 0xFFFFFFE0⟩, by decide, cmd32_and_rotateMask 0 1 n⟩
  | add => decide
  | md5Init => decide
  | md5Compress => decide
  | sha1Init => decide
  | sha1Compress => decide
  | sha256Init => decide
  | sha256Compress => decide

theorem decode_isOk_of_matches_row {v : Word} {r : OpcodeRow} (hr : r ∈ opcodeMap) (h : v &&& r.mask = r.pattern) :
    ∃ i, decode v = .ok i := by
  have hall : v &&& 0xFFFFFFFF = v := BitVec.and_allOnes
  simp only [opcodeMap, List.mem_cons, List.not_mem_nil, or_false] at hr
  rcases hr with rfl | rfl | rfl | rfl | rfl | rfl | rfl | rfl | rfl
  · exact ⟨_, decode_rotlRow h⟩
  · exact ⟨_, decode_rotrRow h⟩
  all_goals
    rw [hall] at h; subst h; exact ⟨_, rfl⟩

/-- R85's two forms agree: the words that decode are those that match a row of R87. -/
theorem decode_isOk_iff_matches_row {v : Word} :
    (∃ i, decode v = .ok i) ↔ ∃ r ∈ opcodeMap, v &&& r.mask = r.pattern := by
  constructor
  · rintro ⟨i, h⟩
    rw [← encode_of_decode h]
    exact encode_matches_row i
  · rintro ⟨r, hr, h⟩
    exact decode_isOk_of_matches_row hr h

theorem hits_iff {r : OpcodeRow} {v : Word} : r.hits v = true ↔ v &&& r.mask = r.pattern := beq_iff_eq

/-- Two rows that one word matches agree on the bits both masks keep. -/
theorem patterns_agree_of_hits {r r' : OpcodeRow} {v : Word} (h : r.hits v = true) (h' : r'.hits v = true) :
    r.pattern &&& r'.mask = r'.pattern &&& r.mask := by
  rw [← hits_iff.1 h, ← hits_iff.1 h', BitVec.and_assoc, BitVec.and_assoc, BitVec.and_comm r.mask]

theorem opcodeMap_patterns_disagree :
    opcodeMap.Pairwise fun r r' => r.pattern &&& r'.mask ≠ r'.pattern &&& r.mask := by decide

theorem at_most_one_row_hits (v : Word) : (opcodeMap.filter fun r => r.hits v).length ≤ 1 := by
  have hdisagree := opcodeMap_patterns_disagree.filter fun r => r.hits v
  have hhits : ∀ r ∈ opcodeMap.filter (fun r => r.hits v), r.hits v = true := fun r hr => (List.mem_filter.1 hr).2
  cases hrows : opcodeMap.filter (fun r => r.hits v) with
  | nil => simp
  | cons r rows =>
    cases rows with
    | nil => simp
    | cons r' rows =>
      rw [hrows] at hdisagree hhits
      exact absurd (patterns_agree_of_hits (hhits r (by simp)) (hhits r' (by simp)))
        (List.rel_of_pairwise_cons hdisagree (by simp))

/-! ### Words as the assembler writes them -/

theorem cmd32_eq_ofNat {unit op n : Nat} (hop : op < 16) (hn : n < 32) :
    cmd32 unit op n = BitVec.ofNat 32 (unit * 0x10000000 + op * 0x01000000 + n) := by
  apply BitVec.eq_of_toNat_eq
  simp only [cmd32, BitVec.toNat_append, BitVec.toNat_ofNat]
  rw [← Nat.shiftLeft_add_eq_or_of_lt (by omega), ← Nat.shiftLeft_add_eq_or_of_lt (by omega),
    ← Nat.shiftLeft_add_eq_or_of_lt (by omega)]
  simp only [Nat.shiftLeft_eq]
  omega

end Sys2Proof
end

section
/-! SUPPORT. The host's turn with a command, an illegal word or a poll at the head of its program (30_encoding.md R86,
R91). -/

namespace Sys2Proof.Machine

/-- An illegal word written to CMD records its error. -/
theorem transact_write_illegal {v : Word} (h : ∀ i, decode v ≠ .ok i) (s : State) :
    transact (.write 0 v) s =
      .next { s with hw := { s.hw with err := true, ecause := if s.hw.err then s.hw.ecause else 1 } } := by
  rw [transact, busWrite_cmd targetOf_cmd, runCommand_illegal h, raiseError_eq]; rfl

theorem nextAgent_scheduled {s : State} {a : Agent} {turns : List Agent} (h : s.schedule = a :: turns) :
    nextAgent s = some a := by simp [nextAgent, h]

/-- With no turn fixed and every core idle, a host with something to do moves. -/
theorem nextAgent_host_of_idle {s : State} {op : HostOp} {rest : List HostOp} (hs : s.schedule = [])
    (hidle : ∀ u, (s.hw.core u).busy = false) (hp : s.program = op :: rest) : nextAgent s = some .host := by
  simp [nextAgent, hs, firstBusy_none.2 hidle, hp]

/-- A legal word at the head of the host's program is executed in the host's turn. -/
theorem step_command {s : State} {v : Word} {i : Instr} {rest : List HostOp} (hn : nextAgent s = some .host)
    (hd : decode v = .ok i) (hp : s.program = .issue (.write 0 v) :: rest) :
    step s = exec i { s with program := rest, schedule := s.schedule.tail } := by
  rw [step_issue hn hp, transact, busWrite_cmd targetOf_cmd, runCommand_ok hd]; rfl

/-- A poll at the head of the host's program is one read in the host's turn, and it stays there while the value read
has a bit of the mask. -/
theorem step_waitClr {s : State} {a : WordAddr} {mask : Word} {rest : List HostOp} (hn : nextAgent s = some .host)
    (hp : s.program = .waitClr a mask :: rest) :
    step s = .next { busRead a (popSchedule s) with
      program := if readValue s (targetOf a) &&& mask = 0 then rest else s.program } := by
  simp only [step, takeTurn, hn, hostTurn, popSchedule_program, hp]
  by_cases hm : readValue s (targetOf a) &&& mask = 0
  · rw [if_pos hm]; exact if_pos hm
  · rw [if_neg hm, ← hp]; exact if_neg hm

end Sys2Proof.Machine
end

section
/-! CERTIFICATES. The statements about the command word, the records of transactions and the host's turn
(30_encoding.md). -/

namespace Sys2Proof.Machine

/-- Settles O1: the word of a command holds its fields, and the fields name no other command. -/
theorem encodedCommandsDecodeToThemselves : Obligations.EncodedCommandsDecodeToThemselves := fun _ h =>
  decode_encode h

/-- Settles O2, from the fields the command was read from. -/
theorem aCommandHasOneWord : Obligations.ACommandHasOneWord := fun _ _ h =>
  ⟨encode_of_decode h, wellFormed_of_decode h⟩

/-- Settles O3, by the fields and by the rows. -/
theorem exactlyTheLegalWordsDecode : Obligations.ExactlyTheLegalWordsDecode := by
  refine fun v => ⟨decode_isOk.trans ?_, decode_isOk_iff_matches_row⟩
  simp only [LegalUnitOp, BitVec.toNat_eq]
  rfl

/-- Settles O4: the rotate rows by their fields, the others by their one word, and any two rows by a bit on which they
disagree. -/
theorem theOpcodeMapDecodesRowByRow : Obligations.TheOpcodeMapDecodesRowByRow := by
  refine fun v => ⟨decode_rotlRow, decode_rotrRow, ?_, ?_, ?_, ?_, ?_, ?_, ?_, at_most_one_row_hits v, ?unmatched⟩
  case unmatched =>
    intro hnone i hi
    obtain ⟨r, hr, h⟩ := decode_isOk_iff_matches_row.1 ⟨i, hi⟩
    exact List.filter_eq_nil_iff.1 hnone r hr (hits_iff.2 h)
  all_goals rintro rfl; rfl

/-- Settles O6: a word that matches no row does not decode, and a reserved field keeps a word from decoding. -/
theorem illegalWordsOnlyRecordTheirError : Obligations.IllegalWordsOnlyRecordTheirError := by
  refine ⟨fun v s hnone => transact_write_illegal (fun i hi => ?_) s, fun v hreserved r hr h => ?_, rfl,
    fun s => rfl⟩
  · obtain ⟨r, hr, h⟩ := decode_isOk_iff_matches_row.1 ⟨i, hi⟩
    exact hnone r hr h
  · exact decode_ne_ok_of_reserved hreserved (decode_isOk_of_matches_row hr h)

/-- Settles O5, by running the decoder on each word. -/
theorem wordsWrittenOutBitByBitDecode : Obligations.WordsWrittenOutBitByBitDecode :=
  ⟨rfl, rfl, rfl, rfl, rfl, rfl, rfl, rfl⟩

/-- Settles O7: DIR tells a write from a read, and the record of each is read back. -/
theorem recordsSpellTheirTransaction : Obligations.RecordsSpellTheirTransaction := by
  refine ⟨fun _ _ => rfl, fun _ => rfl, fun r t => ?_⟩
  constructor
  · intro h
    unfold ofRecord at h
    split_ifs at h with hdir hdata
    · cases h; rw [recordOf, ← hdir]
    · cases h
      have hdir' : r.dir = 0 := (BitVec.eq_zero_or_eq_one r.dir).resolve_right hdir
      rw [recordOf, ← hdir', ← hdata]
  · intro h
    cases t with
    | write a v => cases h; rfl
    | read a => cases h; rfl
    | reset => cases h

/-- Settles O8: the word of a rotate is a sum of its fields; every other word is fixed. -/
theorem pseudoInstructionsExpandToTheirWords : Obligations.PseudoInstructionsExpandToTheirWords := by
  refine ⟨fun n fresh hn => ?_, fun n fresh hn => ?_, fun fresh => ?_⟩
  · simp [expand, hn, encode, cmd32_eq_ofNat]
  · simp [expand, hn, encode, cmd32_eq_ofNat]
  · exact ⟨rfl, rfl, rfl, rfl, rfl, rfl, rfl, rfl, rfl, rfl, rfl⟩

/-- Settles O46: whichever way the turn is the host's, its step is the command's execution. -/
theorem aStepRunsTheDecodedCommand : Obligations.AStepRunsTheDecodedCommand := by
  intro s v i rest hd hp
  refine ⟨fun turns hs => ?_, fun hs hidle => ?_⟩
  · rw [step_command (nextAgent_scheduled hs) hd hp, hs]; rfl
  · rw [step_command (nextAgent_host_of_idle hs hidle hp) hd hp, hs, List.tail_nil, ← hs]

/-- Settles O47: the turn of a poll is one read, and the value read decides what is left of the program. -/
theorem waitclrReadsUntilTheMaskIsClear : Obligations.WaitclrReadsUntilTheMaskIsClear := by
  intro s a mask rest turns hp hs
  exact ⟨_, _, step_waitClr (nextAgent_scheduled hs) hp, rfl, rfl, congrArg List.tail hs, rfl, rfl⟩

end Sys2Proof.Machine
end

section
/-! SUPPORT. The word primitives bit by bit (40_word_primitives.md R100 to R104): a right rotate is a left one, and
a left rotate is the library's. -/

namespace Sys2Proof

/-! ### Where the bits go -/

theorem rotl32_zero (x : Word) : rotl32 x 0 = x := rfl

theorem rotr32_zero (x : Word) : rotr32 x 0 = x := rfl

theorem rotl32_eq_rotateLeft (x : Word) {n : Nat} (hn : n < 32) : rotl32 x n = x.rotateLeft n := by
  by_cases h0 : n = 0
  · subst h0; simp [rotl32_zero, BitVec.rotateLeft_def, BitVec.ushiftRight_eq_zero]
  · rw [rotl32, if_neg h0, BitVec.rotateLeft_def, Nat.mod_eq_of_lt hn]

/-- The first law of R104. -/
theorem rotr32_eq_rotl32 (x : Word) {n : Nat} (hn : n < 32) : rotr32 x n = rotl32 x ((32 - n) % 32) := by
  by_cases h0 : n = 0
  · subst h0; rfl
  · rw [Nat.mod_eq_of_lt (by omega), rotr32, rotl32, if_neg h0, if_neg (by omega), BitVec.or_comm,
      Nat.sub_sub_self hn.le]

theorem rotl32_getLsbD (x : Word) {n i : Nat} (hn : n < 32) (hi : i < 32) :
    (rotl32 x n).getLsbD i = x.getLsbD ((i + 32 - n) % 32) := by
  rw [rotl32_eq_rotateLeft x hn, BitVec.getLsbD_rotateLeft, Nat.mod_eq_of_lt hn, Bool.cond_decide]
  split
  · congr 1; omega
  · rw [decide_eq_true hi, Bool.true_and]; congr 1; omega

theorem rotr32_getLsbD (x : Word) {n i : Nat} (hn : n < 32) (hi : i < 32) :
    (rotr32 x n).getLsbD i = x.getLsbD ((i + n) % 32) := by
  rw [rotr32_eq_rotl32 x hn, rotl32_getLsbD x (by omega) hi]
  congr 1; omega

/-! ### The shift forms -/

theorem rotl32_toNat (x : Word) {n : Nat} (hn : 1 ≤ n) :
    (rotl32 x n).toNat = (x.toNat * 2 ^ n % 2 ^ 32) ||| (x.toNat / 2 ^ (32 - n)) := by
  rw [rotl32, if_neg (by omega), BitVec.toNat_or, BitVec.toNat_shiftLeft, BitVec.toNat_ushiftRight,
    Nat.shiftLeft_eq, Nat.shiftRight_eq_div_pow]

theorem rotr32_toNat (x : Word) {n : Nat} (hn : 1 ≤ n) :
    (rotr32 x n).toNat = (x.toNat / 2 ^ n) ||| (x.toNat * 2 ^ (32 - n) % 2 ^ 32) := by
  rw [rotr32, if_neg (by omega), BitVec.toNat_or, BitVec.toNat_shiftLeft, BitVec.toNat_ushiftRight,
    Nat.shiftLeft_eq, Nat.shiftRight_eq_div_pow]

theorem shr32_toNat (x : Word) (n : Nat) : (shr32 x n).toNat = x.toNat / 2 ^ n := by
  rw [shr32, BitVec.toNat_ushiftRight, Nat.shiftRight_eq_div_pow]

/-! ### The laws of rotation -/

theorem rotl32_rotl32 (x : Word) {m n : Nat} (hm : m < 32) (hn : n < 32) :
    rotl32 (rotl32 x m) n = rotl32 x ((m + n) % 32) := by
  apply word_ext; intro i hi
  rw [rotl32_getLsbD _ hn hi, rotl32_getLsbD _ hm (by omega), rotl32_getLsbD _ (by omega) hi]
  congr 1; omega

theorem rotl32_rotr32 (x : Word) {n : Nat} (hn : n < 32) : rotl32 (rotr32 x n) n = x := by
  have hback : ((32 - n) % 32 + n) % 32 = 0 := by omega
  rw [rotr32_eq_rotl32 x hn, rotl32_rotl32 x (by omega) hn, hback, rotl32_zero]

/-- Going round the places 0 to m - 1 from place k on visits each of them once. -/
theorem map_add_mod_range_perm (m k : Nat) : ((List.range m).map fun i => (i + k) % m).Perm (List.range m) := by
  have hrotate : ((List.range m).map fun i => (i + k) % m) = (List.range m).rotate k :=
    List.ext_getElem (by simp) fun i _ _ => by simp [List.getElem_rotate]
  rw [hrotate]
  exact List.rotate_perm _ _

theorem rotl32_countP (x : Word) {n : Nat} (hn : n < 32) :
    (List.range 32).countP (fun i => (rotl32 x n).getLsbD i) = (List.range 32).countP (fun i => x.getLsbD i) := by
  calc (List.range 32).countP (fun i => (rotl32 x n).getLsbD i)
      = (List.range 32).countP ((fun i => x.getLsbD i) ∘ fun i => (i + (32 - n)) % 32) := by
        refine List.countP_congr fun i hi => ?_
        rw [rotl32_getLsbD x hn (List.mem_range.1 hi), Nat.add_sub_assoc hn.le, Function.comp_apply]
    _ = ((List.range 32).map fun i => (i + (32 - n)) % 32).countP (fun i => x.getLsbD i) := List.countP_map.symm
    _ = (List.range 32).countP (fun i => x.getLsbD i) := (map_add_mod_range_perm 32 (32 - n)).countP_eq _

theorem rotr32_countP (x : Word) {n : Nat} (hn : n < 32) :
    (List.range 32).countP (fun i => (rotr32 x n).getLsbD i) = (List.range 32).countP (fun i => x.getLsbD i) := by
  rw [rotr32_eq_rotl32 x hn, rotl32_countP x (by omega)]

/-! ### Addition -/

theorem add32_toNat (a b : Word) : (add32 a b).toNat = (a.toNat + b.toNat) % 2 ^ 32 := BitVec.toNat_add a b

theorem add32_inverse (a : Word) : add32 a (BitVec.ofNat 32 (2 ^ 32 - a.toNat)) = 0 := by
  apply BitVec.eq_of_toNat_eq
  rw [add32_toNat, BitVec.toNat_ofNat, Nat.add_mod_mod, Nat.add_sub_cancel' a.isLt.le]
  rfl

end Sys2Proof
end

section
/-! SUPPORT. The words of the ROT32 commands, and what these commands leave of the window (40_word_primitives.md R105
to R107). -/

namespace Sys2Proof

theorem decode_rotlWord {n : Nat} (hn : n < 32) : decode (BitVec.ofNat 32 n) = .ok (.rotl n) := by
  have hword : encode (.rotl n) = BitVec.ofNat 32 n := by simp [encode, cmd32_eq_ofNat, hn]
  rw [← hword]
  exact decode_encode (decide_eq_true hn)

theorem decode_rotrWord {n : Nat} (hn : n < 32) : decode (BitVec.ofNat 32 (0x01000000 + n)) = .ok (.rotr n) := by
  have hword : encode (.rotr n) = BitVec.ofNat 32 (0x01000000 + n) := by simp [encode, cmd32_eq_ofNat, hn]
  rw [← hword]
  exact decode_encode (decide_eq_true hn)

/-- ADD takes no amount (R84, R107). -/
theorem decode_addWord_amount {n : Nat} (h1 : 1 ≤ n) (hn : n < 32) :
    ¬ ∃ i, decode (BitVec.ofNat 32 (0x02000000 + n)) = .ok i := by
  have hword : cmd32 0 2 n = BitVec.ofNat 32 (0x02000000 + n) := cmd32_eq_ofNat (by decide) hn
  obtain ⟨-, hop, -, hamt⟩ := Laws.EncodeFields.cmd32_fields 0 2 n hn
  rw [← hword]
  refine decode_ne_ok_of_reserved (.inr (.inr (.inr (.inr ⟨.inr (by rw [hop]; rfl), fun h0 => ?_⟩))))
  rw [h0] at hamt
  have hn0 : 0 = n := hamt
  omega

end Sys2Proof

namespace Sys2Proof.Machine

theorem exec_rotl (n : Nat) (s : State) :
    exec (.rotl n) s = .next { s with hw := { s.hw with rotRes := rotl32 s.hw.rotA n } } := rfl

theorem exec_rotr (n : Nat) (s : State) :
    exec (.rotr n) s = .next { s with hw := { s.hw with rotRes := rotr32 s.hw.rotA n } } := rfl

theorem exec_add (s : State) :
    exec .add s = .next { s with hw := { s.hw with rotRes := add32 s.hw.rotA s.hw.rotB } } := rfl

/-- A command of no core writes ROT_RES and nothing else. -/
theorem exec_rot32 {i : Instr} {s t : State} (hi : commandCore i = none) (h : exec i s = .next t) :
    ∃ w, t = { s with hw := { s.hw with rotRes := w } } := by
  obtain ⟨g, hg, he⟩ := exec_effect i s
  rw [h] at hg; cases hg
  cases he with
  | rot w => exact ⟨w, rfl⟩
  | busy u hu => simp [hi] at hu
  | init u hu => simp [hu] at hi
  | issue u hu => simp [hu] at hi

/-- ROT_RES is one register of the window. -/
theorem registerWord_rotRes_other (hw : Hw) (w : Word) {x : Target} (hx : x ≠ .rotRes) :
    registerWord { hw with rotRes := w } x = registerWord hw x := by
  cases x with
  | rotRes => exact absurd rfl hx
  | blk u k => cases u <;> rfl
  | h u i => cases u <;> rfl
  | _ => rfl

theorem offsetOf_eq_of_targetOf_rotRes {a : WordAddr} (h : targetOf a = .rotRes) : offsetOf a = 0x010 := by
  rw [targetOf_eq_rotRes h]; rfl

end Sys2Proof.Machine
end

section
/-! CERTIFICATES. The statements about the word primitives and the ROT32 commands (40_word_primitives.md). -/

namespace Sys2Proof.Machine

/-- Settles O15: the bits from the library's rotate, the shift forms from the definitions. -/
theorem rotatesAndShiftsMoveEachBit : Obligations.RotatesAndShiftsMoveEachBit := fun x n hn =>
  ⟨fun _ hi => rotl32_getLsbD x hn hi, fun _ hi => rotr32_getLsbD x hn hi, shr32_toNat x n, rotl32_zero x,
    rotr32_zero x, rotl32_toNat x, rotr32_toNat x⟩

/-- Settles O16: rotation laws bit by bit, the number of 1 bits as a permutation of the 32 places, and the group laws
of `BitVec`. -/
theorem rotationShiftAndAdditionLaws : Obligations.RotationShiftAndAdditionLaws := by
  refine ⟨fun x _ hn => rotr32_eq_rotl32 x hn, fun x _ _ hm hn => rotl32_rotl32 x hm hn,
    fun x _ hn => rotl32_rotr32 x hn, fun x _ hn => ⟨rotl32_countP x hn, rotr32_countP x hn⟩,
    fun x n _ => ?shift, fun a b c =>
      ⟨BitVec.add_comm a b, BitVec.add_assoc a b c, BitVec.add_zero a, add32_inverse a⟩⟩
  case shift =>
    rw [shr32_toNat]
    exact Nat.div_le_self _ _

/-- Settles O17: the word is that of `encode`, and each bit is where `rotl32` moves it. -/
theorem rotlRotatesRotALeftIntoRotRes : Obligations.RotlRotatesRotALeftIntoRotRes := fun s n hn =>
  ⟨decode_rotlWord hn, _, exec_rotl n s, fun _ hi => rotl32_getLsbD s.hw.rotA hn hi⟩

/-- Settles O18: the word is that of `encode`, and each bit is where `rotr32` moves it. -/
theorem rotrRotatesRotARightIntoRotRes : Obligations.RotrRotatesRotARightIntoRotRes := fun s n hn =>
  ⟨decode_rotrWord hn, _, exec_rotr n s, fun _ hi => rotr32_getLsbD s.hw.rotA hn hi⟩

/-- Settles O20: only the offset of ROT_RES names the register these commands write. -/
theorem rot32CommandsChangeRotResAlone : Obligations.Rot32CommandsChangeRotResAlone := by
  intro i s t hi h
  obtain ⟨w, rfl⟩ := exec_rot32 hi h
  exact ⟨⟨rfl, rfl, rfl, rfl⟩, fun a ha =>
    registerWord_rotRes_other s.hw w fun hx => ha (offsetOf_eq_of_targetOf_rotRes hx)⟩

/-- Settles O19: with an amount the word breaks R85; without one the sum is that of `BitVec`. -/
theorem addWritesTheSumModulo : Obligations.AddWritesTheSumModulo :=
  ⟨rfl, fun _ h1 hn i hi => decode_addWord_amount h1 hn ⟨i, hi⟩,
    fun s => ⟨_, exec_add s, add32_toNat s.hw.rotA s.hw.rotB⟩⟩

end Sys2Proof.Machine
end

section
/-! SUPPORT. INIT and COMPRESS of core U, written out: the command to an idle core, the command to a busy one, and the
completion (R140, R141, R170, R171, R200, R201, R283). -/

namespace Sys2Proof.Machine

@[simp] theorem setCore_setCore (hw : Hw) (u : CoreId) (c c' : CoreRegs (stateLen u)) :
    (hw.setCore u c).setCore u c' = hw.setCore u c' := by cases u <;> rfl

/-- The first error recorded is the one kept (R252). -/
@[simp] theorem raiseError_raiseError (c c' : ErrorCause) (s : State) :
    raiseError c (raiseError c' s) = raiseError c' s := by simp [raiseError_eq]

theorem exec_initInstr (u : CoreId) (s : State) : exec (initInstr u) s = .next (initCore u s) := by cases u <;> rfl

theorem exec_compressInstr (u : CoreId) (s : State) : exec (compressInstr u) s = .next (issueCompress u s) := by
  cases u <;> rfl

theorem exec_initInstr_idle {u : CoreId} {s : State} (hb : (s.hw.core u).busy = false) :
    exec (initInstr u) s = .next { s with hw := s.hw.setCore u { s.hw.core u with h := iv u } } := by
  rw [exec_initInstr, initCore, unlessBusy_idle hb, State.mapHw]

theorem exec_initInstr_busy {u : CoreId} {s : State} (hb : (s.hw.core u).busy = true) :
    exec (initInstr u) s = .next (raiseError .cmdWhileBusy s) := by
  rw [exec_initInstr, initCore, unlessBusy_busy hb]

theorem exec_compressInstr_idle {u : CoreId} {s : State} (hb : (s.hw.core u).busy = false) :
    exec (compressInstr u) s = .next { s with hw := s.hw.setCore u { s.hw.core u with busy := true } } := by
  rw [exec_compressInstr, issueCompress, unlessBusy_idle hb, State.mapHw]

theorem exec_compressInstr_busy {u : CoreId} {s : State} (hb : (s.hw.core u).busy = true) :
    exec (compressInstr u) s = .next (raiseError .cmdWhileBusy s) := by
  rw [exec_compressInstr, issueCompress, unlessBusy_busy hb]

/-- A second INIT changes nothing: the initial value is there, or the error is recorded already. -/
theorem exec_initInstr_idem {u : CoreId} {s t : State} (h : exec (initInstr u) s = .next t) :
    exec (initInstr u) t = .next t := by
  cases hb : (s.hw.core u).busy with
  | true =>
    rw [exec_initInstr_busy hb] at h; cases h
    rw [exec_initInstr_busy (by simpa [raiseError] using hb), raiseError_raiseError]
  | false =>
    rw [exec_initInstr_idle hb] at h; cases h
    rw [exec_initInstr_idle (by simpa using hb), setCore_setCore, core_setCore_self]

/-- The scheduled turn of a busy core is its completion. -/
theorem step_completion {u : CoreId} {s : State} {rest : List Agent} (hb : (s.hw.core u).busy = true)
    (hs : s.schedule = .core u :: rest) :
    step s = .next { s with schedule := rest, hw := s.hw.setCore u {
      h := compress u (s.hw.core u).h (s.hw.core u).blk, blk := (s.hw.core u).blk, busy := false } } := by
  simp only [step, takeTurn, nextAgent_scheduled hs, coreTurn, State.mapHw, popSchedule, complete_busy hb, hs,
    List.tail_cons]

end Sys2Proof.Machine
end

section
/-! SUPPORT. MD5's rounds in groups of four: after four rotations of the working variables each of them is back in its
place, so that a group replaces a, d, c and b in place (41_md5_core.md R136). -/

namespace Sys2Proof.Machine

/-- The word a round adds and rotates: p is the variable it replaces, q, r and s are the other three (R136). -/
def md5Sum (x : List Word) (i : Nat) (p q r s : Word) : Word :=
  p + md5Mix i q r s + md5T.getD i 0 + x.getD (md5G i) 0

/-- Rounds 4k to 4k + 3 in the rolling naming. -/
def md5Group (x : List Word) (v : Md5Vars) (k : Nat) : Md5Vars :=
  let a := v.b + rotl32 (md5Sum x (4 * k) v.a v.b v.c v.d) (md5S (4 * k))
  let d := a + rotl32 (md5Sum x (4 * k + 1) v.d a v.b v.c) (md5S (4 * k + 1))
  let c := d + rotl32 (md5Sum x (4 * k + 2) v.c d a v.b) (md5S (4 * k + 2))
  let b := c + rotl32 (md5Sum x (4 * k + 3) v.b c d a) (md5S (4 * k + 3))
  { a := a, b := b, c := c, d := d }

theorem md5Round_eq (x : List Word) (v : Md5Vars) (i : Nat) :
    md5Round x v i = { a := v.d, b := v.b + rotl32 (md5Sum x i v.a v.b v.c v.d) (md5S i), c := v.b, d := v.c } := rfl

theorem md5Rounds_zero (x : List Word) (v : Md5Vars) : md5Rounds x 0 v = v := rfl

theorem md5Rounds_succ (x : List Word) (n : Nat) (v : Md5Vars) :
    md5Rounds x (n + 1) v = md5Round x (md5Rounds x n v) n := by
  simp [md5Rounds, List.range_succ]

theorem md5Round_four (x : List Word) (v : Md5Vars) (k : Nat) :
    md5Round x (md5Round x (md5Round x (md5Round x v (4 * k)) (4 * k + 1)) (4 * k + 2)) (4 * k + 3) =
      md5Group x v k := by
  simp only [md5Round_eq, md5Group]

/-- 4n rounds are n groups. -/
theorem md5Rounds_four_mul (x : List Word) (n : Nat) (v : Md5Vars) :
    md5Rounds x (4 * n) v = (List.range n).foldl (md5Group x) v := by
  induction n with
  | zero => exact md5Rounds_zero x v
  | succ n ih =>
    rw [Nat.mul_succ, md5Rounds_succ, md5Rounds_succ, md5Rounds_succ, md5Rounds_succ, md5Round_four, ih,
      List.range_succ, List.foldl_concat]

theorem md5Rounds_sixtyFour (x : List Word) (v : Md5Vars) :
    md5Rounds x 64 v = (List.range 16).foldl (md5Group x) v := md5Rounds_four_mul x 16 v

/-- R137, with the rounds in groups. -/
theorem md5CompressFn_eq_groups (h : Vector Word 4) (blk : Vector Word 16) :
    md5CompressFn h blk =
      let v := (List.range 16).foldl (md5Group (wordsAsStored blk)) { a := h[0], b := h[1], c := h[2], d := h[3] }
      #v[h[0] + v.a, h[1] + v.b, h[2] + v.c, h[3] + v.d] := by
  simp only [md5CompressFn, md5Rounds_sixtyFour]

end Sys2Proof.Machine
end

section
/-! CERTIFICATES. The statements about MD5's core and its compression function (41_md5_core.md). -/

namespace Sys2Proof.Machine

/-- Settles O28: the 64 rounds are sixteen groups of four. -/
theorem md5CompressIsTheRollingForm : Obligations.Md5CompressIsTheRollingForm := md5CompressFn_eq_groups

/-- Settles O21, from what INIT does to an idle and to a busy core. -/
theorem md5InitLoadsTheInitialValue : Obligations.Md5InitLoadsTheInitialValue :=
  ⟨rfl, fun s => ⟨fun hb => exec_initInstr_idle (u := .md5) hb,
    fun hb => (exec_initInstr_busy (u := .md5) hb).trans (congrArg _ (raiseError_eq _ s)),
    fun _ h => exec_initInstr_idem (u := .md5) h⟩⟩

/-- Settles O24, from what COMPRESS does to an idle and to a busy core, and from the completion. -/
theorem md5CompressIsIssuedThenCompleted : Obligations.Md5CompressIsIssuedThenCompleted :=
  ⟨rfl, fun s => ⟨fun hb => exec_compressInstr_idle (u := .md5) hb,
    fun hb => (exec_compressInstr_busy (u := .md5) hb).trans (congrArg _ (raiseError_eq _ s)),
    fun hb _ hs => step_completion (u := .md5) hb hs⟩⟩

end Sys2Proof.Machine
end

section
/-! SUPPORT. Message schedules: words put one by one after the block's own words, each computed from the words before it
(42_sha1_core.md R164, 43_sha256_core.md R194). -/

namespace Sys2Proof.Machine

/-- The words w with n more after them. `next` computes each from all the words before it, given newest first. -/
def extendSchedule (next : List Word → Word) (n : Nat) (w : List Word) : List Word :=
  ((List.range n).foldl (fun v _ => next v :: v) w.reverse).reverse

theorem extendSchedule_zero (next : List Word → Word) (w : List Word) : extendSchedule next 0 w = w :=
  List.reverse_reverse w

theorem extendSchedule_succ (next : List Word → Word) (n : Nat) (w : List Word) :
    extendSchedule next (n + 1) w = extendSchedule next n w ++ [next (extendSchedule next n w).reverse] := by
  simp [extendSchedule, List.range_succ]

@[simp] theorem length_extendSchedule (next : List Word → Word) (n : Nat) (w : List Word) :
    (extendSchedule next n w).length = w.length + n := by
  induction n with
  | zero => rw [extendSchedule_zero, Nat.add_zero]
  | succ n ih => rw [extendSchedule_succ, List.length_append, ih, List.length_singleton, Nat.add_assoc]

/-- The block's own words stay at the front. -/
theorem prefix_extendSchedule (next : List Word → Word) (n : Nat) (w : List Word) : w <+: extendSchedule next n w := by
  induction n with
  | zero => rw [extendSchedule_zero]
  | succ n ih => rw [extendSchedule_succ]; exact ih.trans (List.prefix_append _ _)

theorem getElem?_extendSchedule (next : List Word → Word) (n : Nat) {w : List Word} {k : Nat} (hk : k < w.length) :
    (extendSchedule next n w)[k]? = w[k]? := by
  rw [List.getElem?_eq_getElem hk]
  exact List.prefix_iff_getElem?.mp (prefix_extendSchedule next n w) k hk

/-- Word t is computed from the t words before it, however many are put after it. -/
theorem getD_extendSchedule (next : List Word → Word) {n t : Nat} {w : List Word} (hw : w.length ≤ t)
    (ht : t < w.length + n) :
    (extendSchedule next n w).getD t 0 = next ((extendSchedule next n w).take t).reverse := by
  induction n with
  | zero => omega
  | succ n ih =>
    have hlen := length_extendSchedule next n w
    rw [extendSchedule_succ, List.take_append_of_le_length (by omega)]
    by_cases hlast : t = w.length + n
    · rw [← hlen] at hlast
      rw [hlast, List.take_length, List.getD_append_right _ _ _ _ le_rfl, Nat.sub_self, List.getD_cons_zero]
    · rw [List.getD_append _ _ _ _ (by omega)]
      exact ih (by omega)

/-- Of the t words before word t, newest first, place j holds the word j + 1 before it. -/
theorem getD_reverse_take {l : List Word} {t j : Nat} (ht : t ≤ l.length) (hj : j < t) :
    (l.take t).reverse.getD j 0 = l.getD (t - (j + 1)) 0 := by
  have hlen : (l.take t).length = t := List.length_take_of_le ht
  rw [List.getD_eq_getElem?_getD, List.getElem?_reverse (by omega), hlen, List.getElem?_take_of_lt (by omega),
    ← List.getD_eq_getElem?_getD, Nat.sub_sub, Nat.add_comm 1 j]

@[simp] theorem length_wordsSwapped (blk : Vector Word 16) : (wordsSwapped blk).length = 16 := by
  simp [wordsSwapped]

theorem getElem?_wordsSwapped (blk : Vector Word 16) (k : Nat) : (wordsSwapped blk)[k]? = blk[k]?.map bswap32 := by
  simp [wordsSwapped]

/-- The word that `sha1Extend` puts before the words so far. -/
def sha1NextWord (w : List Word) : Word :=
  rotl32 (w.getD 2 0 ^^^ w.getD 7 0 ^^^ w.getD 13 0 ^^^ w.getD 15 0) 1

theorem sha1Schedule_eq (blk : Vector Word 16) :
    sha1Schedule blk = extendSchedule sha1NextWord 64 (wordsSwapped blk) := rfl

/-- With the words before word t newest first, the four places are those of R164. -/
theorem sha1NextWord_reverse_take {l : List Word} {t : Nat} (ht : t ≤ l.length) (h16 : 16 ≤ t) :
    sha1NextWord (l.take t).reverse =
      rotl32 (l.getD (t - 3) 0 ^^^ l.getD (t - 8) 0 ^^^ l.getD (t - 14) 0 ^^^ l.getD (t - 16) 0) 1 := by
  have place (j : Nat) (hj : j < 16) : (l.take t).reverse.getD j 0 = l.getD (t - (j + 1)) 0 :=
    getD_reverse_take ht (by omega)
  rw [sha1NextWord, place 2 (by decide), place 7 (by decide), place 13 (by decide), place 15 (by decide)]

end Sys2Proof.Machine
end

section
/-! CERTIFICATES. The statements about SHA-1's core and its message schedule (42_sha1_core.md). -/

namespace Sys2Proof.Machine

/-- Settles O29: the block's words are the front of the schedule, and each later word is the `sha1NextWord` of the words
before it. -/
theorem sha1ScheduleFollowsItsRecurrence : Obligations.Sha1ScheduleFollowsItsRecurrence := by
  intro blk
  have hlen : (sha1Schedule blk).length = 80 := by rw [sha1Schedule_eq, length_extendSchedule, length_wordsSwapped]
  refine ⟨hlen, fun k hk => ?front, fun t h16 h80 => ?later⟩
  case front =>
    rw [sha1Schedule_eq, getElem?_extendSchedule _ _ (by rwa [length_wordsSwapped]), getElem?_wordsSwapped]
  case later =>
    rw [← sha1NextWord_reverse_take (by omega) h16]
    exact getD_extendSchedule sha1NextWord (by rwa [length_wordsSwapped]) (by rwa [length_wordsSwapped])

/-- Settles O22, from what INIT does to an idle and to a busy core. -/
theorem sha1InitLoadsTheInitialValue : Obligations.Sha1InitLoadsTheInitialValue :=
  ⟨rfl, fun s => ⟨fun hb => exec_initInstr_idle (u := .sha1) hb,
    fun hb => (exec_initInstr_busy (u := .sha1) hb).trans (congrArg _ (raiseError_eq _ s)),
    fun _ h => exec_initInstr_idem (u := .sha1) h⟩⟩

/-- Settles O25, from what COMPRESS does to an idle and to a busy core, and from the completion. -/
theorem sha1CompressIsIssuedThenCompleted : Obligations.Sha1CompressIsIssuedThenCompleted :=
  ⟨rfl, fun s => ⟨fun hb => exec_compressInstr_idle (u := .sha1) hb,
    fun hb => (exec_compressInstr_busy (u := .sha1) hb).trans (congrArg _ (raiseError_eq _ s)),
    fun hb _ hs => step_completion (u := .sha1) hb hs⟩⟩

end Sys2Proof.Machine
end

section
/-! SUPPORT. SHA-256's message schedule as an extension of the block's words (43_sha256_core.md R194). -/

namespace Sys2Proof.Machine

/-- The word that `sha256Extend` puts before the words so far. -/
def sha256NextWord (w : List Word) : Word :=
  smallSigma1 (w.getD 1 0) + w.getD 6 0 + smallSigma0 (w.getD 14 0) + w.getD 15 0

theorem sha256Schedule_eq (blk : Vector Word 16) :
    sha256Schedule blk = extendSchedule sha256NextWord 48 (wordsSwapped blk) := rfl

/-- With the words before word t newest first, the four places are those of R194. -/
theorem sha256NextWord_reverse_take {l : List Word} {t : Nat} (ht : t ≤ l.length) (h16 : 16 ≤ t) :
    sha256NextWord (l.take t).reverse =
      smallSigma1 (l.getD (t - 2) 0) + l.getD (t - 7) 0 + smallSigma0 (l.getD (t - 15) 0) + l.getD (t - 16) 0 := by
  have place (j : Nat) (hj : j < 16) : (l.take t).reverse.getD j 0 = l.getD (t - (j + 1)) 0 :=
    getD_reverse_take ht (by omega)
  rw [sha256NextWord, place 1 (by decide), place 6 (by decide), place 14 (by decide), place 15 (by decide)]

end Sys2Proof.Machine
end

section
/-! SUPPORT. The primes in their order, and words that are the first 32 bits of the fractional part of a root of a
prime (43_sha256_core.md R190, R191). -/

namespace Sys2Proof.Machine

/-- Of the numbers below m with property p, in increasing order, place t holds the t-th number with p. -/
theorem nth_eq_of_getElem?_filter_range {p : Nat → Prop} [DecidablePred p] {m t q : Nat}
    (h : ((List.range m).filter p)[t]? = some q) : Nat.nth p t = q := by
  induction m with
  | zero => simp at h
  | succ m ih =>
    have hcount : ((List.range m).filter p).length = Nat.count p m := by
      rw [Nat.count, List.countP_eq_length_filter]
    rw [List.range_succ, List.filter_append, List.getElem?_append, hcount] at h
    split at h
    case isTrue => exact ih h
    case isFalse hge =>
      by_cases hpm : p m
      · obtain ⟨hlast, rfl⟩ : t - Nat.count p m = 0 ∧ m = q := by simpa [hpm, List.getElem?_singleton] using h
        rw [show t = Nat.count p m by omega, Nat.nth_count hpm]
      · simp [hpm] at h

/-- The primes below 19. -/
def sievePrimes : List Nat := [2, 3, 5, 7, 11, 13, 17]

theorem mem_sievePrimes : ∀ d < 19, d ∈ sievePrimes ↔ d.Prime := by decide

/-- A number below 19 ^ 2 that is not prime has its least factor among `sievePrimes`. -/
theorem prime_iff_sieved {n : Nat} (hn : n < 19 ^ 2) :
    n.Prime ↔ 2 ≤ n ∧ ∀ d ∈ sievePrimes, d ∣ n → d = n := by
  refine ⟨fun hp => ⟨hp.two_le, fun d hd hdvd => ?prime⟩, fun ⟨h2, h⟩ => ?sieved⟩
  case prime =>
    have hd1 : d ≠ 1 := by rintro rfl; exact absurd hd (by decide)
    exact (hp.eq_one_or_self_of_dvd d hdvd).resolve_left hd1
  case sieved =>
    by_contra hnp
    have hfac : n.minFac < 19 :=
      lt_of_pow_lt_pow_left₀ 2 (by decide) ((Nat.minFac_sq_le_self (by omega) hnp).trans_lt hn)
    have hprime : n.minFac.Prime := Nat.minFac_prime (by omega)
    have heq : n.minFac = n := h _ ((mem_sievePrimes _ hfac).2 hprime) (Nat.minFac_dvd n)
    exact hnp (heq ▸ hprime)

/-- The first 64 primes, by the sieve. -/
def firstPrimes : List Nat :=
  (List.range 312).filter fun n => decide (2 ≤ n ∧ ∀ d ∈ sievePrimes, d ∣ n → d = n)

theorem firstPrimes_eq_filter_prime : firstPrimes = (List.range 312).filter Nat.Prime :=
  List.filter_congr fun _ hn =>
    decide_eq_decide.2 (prime_iff_sieved ((List.mem_range.1 hn).trans (by decide))).symm

theorem length_firstPrimes : firstPrimes.length = 64 := by decide +kernel

theorem getElem?_firstPrimes {t : Nat} (ht : t < 64) : firstPrimes[t]? = some (Nat.nth Nat.Prime t) := by
  obtain ⟨q, hq⟩ : ∃ q, firstPrimes[t]? = some q :=
    ⟨_, List.getElem?_eq_getElem (ht.trans_eq length_firstPrimes.symm)⟩
  rw [hq, nth_eq_of_getElem?_filter_range (firstPrimes_eq_filter_prime ▸ hq)]

/-- a is the k-th root of p rounded down, and the word w the first 32 bits of the root's fractional part: with
n = a * 2^32 + w, n is the k-th root of p * 2^(32 * k) rounded down. -/
abbrev IsRootFraction (k p a : Nat) (w : Word) : Prop :=
  a ^ k ≤ p ∧ p < (a + 1) ^ k ∧
    (a * 2 ^ 32 + w.toNat) ^ k ≤ p * 2 ^ (32 * k) ∧ p * 2 ^ (32 * k) < (a * 2 ^ 32 + w.toNat + 1) ^ k

/-- Word t of a table of root fractions belongs to the t-th prime. -/
theorem exists_isRootFraction_nth_prime {k b : Nat} {ws : List Word}
    (h : ∀ x ∈ firstPrimes.zip ws, ∃ a < b, IsRootFraction k x.1 a x.2) (hlen : ws.length ≤ 64) {t : Nat}
    (ht : t < ws.length) : ∃ a w, ws[t]? = some w ∧ IsRootFraction k (Nat.nth Nat.Prime t) a w := by
  have hw := List.getElem?_eq_getElem ht
  obtain ⟨a, -, ha⟩ := h (Nat.nth Nat.Prime t, ws[t]) (List.mem_of_getElem?
    (List.getElem?_zip_eq_some.2 ⟨getElem?_firstPrimes (ht.trans_le hlen), hw⟩))
  exact ⟨a, _, hw, ha⟩

/-- The root of a prime up to 19 is less than 5. -/
theorem ivSha256_isRootFraction :
    ∀ x ∈ firstPrimes.zip ivSha256.toList, ∃ a < 5, IsRootFraction 2 x.1 a x.2 := by decide +kernel

/-- The cube root of a prime up to 311 is less than 7. -/
theorem sha256K_isRootFraction : ∀ x ∈ firstPrimes.zip sha256K, ∃ a < 7, IsRootFraction 3 x.1 a x.2 := by
  decide +kernel

end Sys2Proof.Machine
end

section
/-! CERTIFICATES. The statements about SHA-256's core, its message schedule and its constants (43_sha256_core.md). -/

namespace Sys2Proof.Machine

/-- Settles O30: the block's words are the front of the schedule, and each later word is the `sha256NextWord` of the
words before it. -/
theorem sha256ScheduleFollowsItsRecurrence : Obligations.Sha256ScheduleFollowsItsRecurrence := by
  intro blk
  have hlen : (sha256Schedule blk).length = 64 := by
    rw [sha256Schedule_eq, length_extendSchedule, length_wordsSwapped]
  refine ⟨hlen, fun k hk => ?front, fun t h16 h64 => ?later⟩
  case front =>
    rw [sha256Schedule_eq, getElem?_extendSchedule _ _ (by rwa [length_wordsSwapped]), getElem?_wordsSwapped]
  case later =>
    rw [← sha256NextWord_reverse_take (by omega) h16]
    exact getD_extendSchedule sha256NextWord (by rwa [length_wordsSwapped]) (by rwa [length_wordsSwapped])

/-- Settles O32, from the words checked one by one against the first 8 primes. -/
theorem sha256InitialValueIsTheSquareRoots : Obligations.Sha256InitialValueIsTheSquareRoots := by
  intro i hi
  rw [← Vector.getElem?_toList]
  exact exists_isRootFraction_nth_prime ivSha256_isRootFraction (by decide) hi

/-- Settles O33, from the constants checked one by one against the first 64 primes. -/
theorem sha256ConstantsAreTheCubeRoots : Obligations.Sha256ConstantsAreTheCubeRoots :=
  ⟨rfl, fun _ ht => exists_isRootFraction_nth_prime sha256K_isRootFraction le_rfl ht⟩

/-- Settles O23, from what INIT does to an idle and to a busy core. -/
theorem sha256InitLoadsTheInitialValue : Obligations.Sha256InitLoadsTheInitialValue :=
  ⟨rfl, fun s => ⟨fun hb => exec_initInstr_idle (u := .sha256) hb,
    fun hb => (exec_initInstr_busy (u := .sha256) hb).trans (congrArg _ (raiseError_eq _ s)),
    fun _ h => exec_initInstr_idem (u := .sha256) h⟩⟩

/-- Settles O26, from what COMPRESS does to an idle and to a busy core, and from the completion. -/
theorem sha256CompressIsIssuedThenCompleted : Obligations.Sha256CompressIsIssuedThenCompleted :=
  ⟨rfl, fun s => ⟨fun hb => exec_compressInstr_idle (u := .sha256) hb,
    fun hb => (exec_compressInstr_busy (u := .sha256) hb).trans (congrArg _ (raiseError_eq _ s)),
    fun hb _ hs => step_completion (u := .sha256) hb hs⟩⟩

end Sys2Proof.Machine
end

section
/-! SUPPORT. The host's own work on bytes: cutting blocks, padding, formatting, and `update` chunk by chunk
(44_host_stream.md R223 to R230). -/

namespace Sys2Proof.Machine

/-! ### Cutting blocks -/

/-- Fuel beyond the number of bytes makes no difference. -/
theorem cutBlocks_fuel {fuel fuel' : Nat} {bs : List Byte} (h : bs.length ≤ fuel) (h' : bs.length ≤ fuel') :
    cutBlocks fuel bs = cutBlocks fuel' bs := by
  induction fuel generalizing fuel' bs with
  | zero =>
    have hnil : bs = [] := List.length_eq_zero_iff.1 (by omega)
    subst hnil; cases fuel' <;> rfl
  | succ fuel ih =>
    cases fuel' with
    | zero =>
      have hnil : bs = [] := List.length_eq_zero_iff.1 (by omega)
      subst hnil; rfl
    | succ fuel' =>
      by_cases h64 : 64 ≤ bs.length
      · have hrest : cutBlocks fuel (bs.drop 64) = cutBlocks fuel' (bs.drop 64) :=
          ih (by rw [List.length_drop]; omega) (by rw [List.length_drop]; omega)
        simp only [cutBlocks, if_pos h64, hrest]
      · simp only [cutBlocks, if_neg h64]

/-- Fewer than 64 bytes hold no block. -/
theorem wholeBlocks_short {bs : List Byte} (h : bs.length < 64) : wholeBlocks bs = ([], bs) := by
  rw [wholeBlocks, cutBlocks_fuel le_rfl (Nat.le_succ _), cutBlocks, if_neg (by omega)]

/-- A block is cut off the front while there is one. -/
theorem wholeBlocks_long {bs : List Byte} (h : 64 ≤ bs.length) :
    wholeBlocks bs = (bs.take 64 :: (wholeBlocks (bs.drop 64)).1, (wholeBlocks (bs.drop 64)).2) := by
  have hrest : cutBlocks bs.length (bs.drop 64) = wholeBlocks (bs.drop 64) :=
    cutBlocks_fuel (by rw [List.length_drop]; omega) le_rfl
  rw [wholeBlocks, cutBlocks_fuel le_rfl (Nat.le_succ _), cutBlocks, if_pos h, hrest]

theorem length_wholeBlocks_tail (bs : List Byte) : (wholeBlocks bs).2.length < 64 := by
  by_cases h : bs.length < 64
  · rwa [wholeBlocks_short h]
  · rw [wholeBlocks_long (by omega)]
    exact length_wholeBlocks_tail (bs.drop 64)
termination_by bs.length
decreasing_by rw [List.length_drop]; omega

/-- Cutting what is left of a first part together with a second part goes on where cutting the first part stopped. -/
theorem wholeBlocks_append (a b : List Byte) :
    wholeBlocks (a ++ b) =
      ((wholeBlocks a).1 ++ (wholeBlocks ((wholeBlocks a).2 ++ b)).1, (wholeBlocks ((wholeBlocks a).2 ++ b)).2) := by
  by_cases h : a.length < 64
  · simp [wholeBlocks_short h]
  · have h64 : 64 ≤ a.length := by omega
    rw [wholeBlocks_long (bs := a ++ b) (by rw [List.length_append]; omega), wholeBlocks_long h64,
      List.take_append_of_le_length h64, List.drop_append_of_le_length h64, wholeBlocks_append (a.drop 64) b]
    rfl
termination_by a.length
decreasing_by rw [List.length_drop]; omega

/-! ### Padding -/

/-- `zeroFill` appends the k zeros that are needed, when its fuel allows k. -/
theorem zeroFill_eq {fuel k : Nat} {p : List Byte} (hk : k ≤ fuel) (hbefore : ∀ j < k, (p.length + j) % 64 ≠ 56)
    (hat : (p.length + k) % 64 = 56) : zeroFill fuel p = p ++ List.replicate k 0x00 := by
  induction k generalizing fuel p with
  | zero =>
    cases fuel with
    | zero => simp [zeroFill]
    | succ fuel => rw [zeroFill, if_pos (by simpa using hat)]; simp
  | succ k ih =>
    obtain ⟨fuel, rfl⟩ : ∃ m, fuel = m + 1 := ⟨fuel - 1, by omega⟩
    have hnot : p.length % 64 ≠ 56 := hbefore 0 (by omega)
    have hlen : (p ++ [(0x00 : Byte)]).length = p.length + 1 := by simp
    rw [zeroFill, if_neg hnot, ih (by omega) (fun j hj => ?_) (by rw [hlen]; omega), List.replicate_succ,
      List.append_assoc, List.singleton_append]
    rw [hlen, Nat.add_assoc, Nat.add_comm 1 j]
    exact hbefore (j + 1) (by omega)

@[simp] theorem length_bytesLe64 (l : Nat) : (bytesLe64 l).length = 8 := by simp [bytesLe64]

theorem getElem?_bytesLe64 (l : Nat) {j : Nat} (hj : j < 8) :
    (bytesLe64 l)[j]? = some (BitVec.ofNat 8 (l / 256 ^ j)) := by
  simp [bytesLe64, List.getElem?_range hj, pow_mul]

@[simp] theorem length_lengthField (u : CoreId) (total : Nat) : (lengthField u total).length = 8 := by
  cases u <;> simp [lengthField]

/-- The length field, byte by byte from the least significant, in the algorithm's order (R224). -/
theorem getElem?_lengthField (u : CoreId) (total : Nat) {j : Nat} (hj : j < 8) :
    (lengthField u total)[if u = .md5 then j else 7 - j]? =
      some (BitVec.ofNat 8 (8 * total % 2 ^ 64 / 256 ^ j)) := by
  have hreverse (l : Nat) : (bytesLe64 l).reverse[7 - j]? = some (BitVec.ofNat 8 (l / 256 ^ j)) := by
    rw [List.getElem?_reverse (by rw [length_bytesLe64]; omega), length_bytesLe64,
      show 8 - 1 - (7 - j) = j by omega, getElem?_bytesLe64 l hj]
  cases u with
  | md5 => exact getElem?_bytesLe64 _ hj
  | sha1 => exact hreverse _
  | sha256 => exact hreverse _

/-- How many zeros follow the 0x80 byte (R225). -/
def zeroCount (tailLength : Nat) : Nat := if tailLength ≤ 55 then 55 - tailLength else 119 - tailLength

theorem pad_eq (u : CoreId) {tail : List Byte} (h : tail.length < 64) (total : Nat) :
    pad u tail total =
      tail ++ [0x80] ++ List.replicate (zeroCount tail.length) 0x00 ++ lengthField u total := by
  have hlen : (tail ++ [(0x80 : Byte)]).length = tail.length + 1 := by simp
  rw [pad, zeroFill_eq (k := zeroCount tail.length)]
  · unfold zeroCount; split <;> omega
  · intro j hj
    rw [hlen]
    unfold zeroCount at hj; split at hj <;> omega
  · rw [hlen]
    unfold zeroCount; split <;> omega

/-! ### Formatting -/

theorem length_digestBytes (u : CoreId) (h : List Word) : (digestBytes u h).length = 4 * h.length := by
  cases u <;> simp [digestBytes, bytesLe, bytesBe, List.length_flatMap, Nat.mul_comm]

theorem length_format (u : CoreId) (h : List Word) : (format u h).length = 8 * h.length := by
  simp only [format, List.length_flatMap, List.length_cons, List.length_nil, List.map_const', List.sum_replicate,
    length_digestBytes, smul_eq_mul]
  omega

/-! ### `update`, chunk by chunk -/

/-- An input that is not too long is so however far it has been read. -/
theorem tooLong_mono {u : CoreId} {m n : Nat} (h : m ≤ n) (hn : tooLong u n = false) : tooLong u m = false := by
  cases u with
  | md5 => rfl
  | sha1 => simp only [tooLong, decide_eq_false_iff_not] at hn ⊢; omega
  | sha256 => simp only [tooLong, decide_eq_false_iff_not] at hn ⊢; omega

theorem update_tooLong {c : DigestCtx} {chunk : List Byte} (hphase : c.phase.takesInput = true)
    (hlong : tooLong c.alg (c.total + chunk.length) = true) : update c chunk = .error .messageTooLong := by
  simp [update, hphase, hlong]

/-- The context after a chunk that was taken. -/
def DigestCtx.fed (c : DigestCtx) (chunk : List Byte) : DigestCtx :=
  { c with tail := (wholeBlocks (c.tail ++ chunk)).2, total := c.total + chunk.length, phase := .accumulating }

theorem update_ok {c : DigestCtx} {chunk : List Byte} (hphase : c.phase.takesInput = true)
    (hlong : tooLong c.alg (c.total + chunk.length) = false) :
    update c chunk = .ok (c.fed chunk, (wholeBlocks (c.tail ++ chunk)).1.flatMap (feedBlock c.alg)) := by
  simp [update, hphase, hlong, DigestCtx.fed]

theorem update_closed {c : DigestCtx} (hphase : c.phase.takesInput = false) (chunk : List Byte) :
    update c chunk = .error .notAccumulating := by simp [update, hphase]

theorem finalize_closed {c : DigestCtx} (hphase : c.phase.takesInput = false) :
    finalize c = .error .notAccumulating := by simp [finalize, hphase]

theorem finalize_ok {c : DigestCtx} (hphase : c.phase.takesInput = true) :
    finalize c = .ok ({ c with phase := .finalizing },
      (wholeBlocks (pad c.alg c.tail c.total)).1.flatMap (feedBlock c.alg) ++ readState c.alg) := by
  simp [finalize, hphase]

/-- Some chunk of an input that is too long is the first to be refused. -/
theorem updateAll_tooLong {c : DigestCtx} {chunks : List (List Byte)} (hphase : c.phase.takesInput = true)
    (hstart : tooLong c.alg c.total = false) (hlong : tooLong c.alg (c.total + chunks.flatten.length) = true) :
    updateAll c chunks = .error .messageTooLong := by
  induction chunks generalizing c with
  | nil => rw [List.flatten_nil, List.length_nil, Nat.add_zero, hstart] at hlong; cases hlong
  | cons chunk chunks ih =>
    cases hchunk : tooLong c.alg (c.total + chunk.length) with
    | true => simp only [updateAll, update_tooLong hphase hchunk]
    | false =>
      have hrest : updateAll (c.fed chunk) chunks = .error .messageTooLong := by
        refine ih rfl hchunk ?_
        rwa [List.flatten_cons, List.length_append, ← Nat.add_assoc] at hlong
      simp only [updateAll, update_ok hphase hchunk, hrest]

/-- Chunk by chunk, the host feeds the blocks of the whole input and keeps what is left of it. -/
theorem updateAll_ok {c : DigestCtx} {chunks : List (List Byte)} (hphase : c.phase.takesInput = true)
    (htail : c.tail.length < 64) (hlong : tooLong c.alg (c.total + chunks.flatten.length) = false) :
    ∃ p, p.takesInput = true ∧
      updateAll c chunks =
        .ok ({ c with tail := (wholeBlocks (c.tail ++ chunks.flatten)).2, total := c.total + chunks.flatten.length,
                      phase := p },
          (wholeBlocks (c.tail ++ chunks.flatten)).1.flatMap (feedBlock c.alg)) := by
  induction chunks generalizing c with
  | nil => exact ⟨c.phase, hphase, by simp [updateAll, wholeBlocks_short htail]⟩
  | cons chunk chunks ih =>
    rw [List.flatten_cons, List.length_append, ← Nat.add_assoc] at hlong
    obtain ⟨p, hp, hrest⟩ := ih (c := c.fed chunk) rfl (length_wholeBlocks_tail _) hlong
    refine ⟨p, hp, ?_⟩
    simp only [updateAll, update_ok hphase (tooLong_mono (Nat.le_add_right _ _) hlong), hrest]
    rw [List.flatten_cons, ← List.append_assoc, wholeBlocks_append (c.tail ++ chunk), List.length_append,
      ← Nat.add_assoc, List.flatMap_append]
    rfl

theorem digestRun_tooLong {u : CoreId} {chunks : List (List Byte)} (hlong : tooLong u chunks.flatten.length = true) :
    digestRun u chunks = .error .messageTooLong := by
  have hall : updateAll (beginDigest u).1 chunks = .error .messageTooLong :=
    updateAll_tooLong rfl (by cases u <;> rfl) (by rwa [beginDigest, Nat.zero_add])
  simp only [digestRun, hall]

/-- The operations of a digest run on the input m (R221 to R226). -/
def digestOps (u : CoreId) (m : List Byte) : List HostOp :=
  (beginDigest u).2 ++ (blocksOf u m).flatMap (feedBlock u) ++ readState u

theorem digestRun_ok {u : CoreId} {chunks : List (List Byte)} (hlong : tooLong u chunks.flatten.length = false) :
    digestRun u chunks =
      .ok ({ alg := u, tail := (wholeBlocks chunks.flatten).2, total := chunks.flatten.length, phase := .finalizing },
        digestOps u chunks.flatten) := by
  obtain ⟨p, hp, hall⟩ := updateAll_ok (c := (beginDigest u).1) (chunks := chunks) rfl (by simp [beginDigest])
    (by rwa [beginDigest, Nat.zero_add])
  simp only [beginDigest, List.nil_append, Nat.zero_add] at hall
  have hlast := finalize_ok (c := { alg := u, tail := (wholeBlocks chunks.flatten).2, total := chunks.flatten.length,
                                    phase := p }) hp
  simp only [digestRun, beginDigest, hall, hlast, digestOps, blocksOf, List.flatMap_append, List.append_assoc]

/-- A digest run that is not refused has the operations of the whole input. -/
theorem digestRun_ops {u : CoreId} {chunks : List (List Byte)} {c : DigestCtx} {ops : List HostOp}
    (h : digestRun u chunks = .ok (c, ops)) : ops = digestOps u chunks.flatten := by
  cases hlong : tooLong u chunks.flatten.length with
  | true => rw [digestRun_tooLong hlong] at h; cases h
  | false => rw [digestRun_ok hlong] at h; cases h; rfl

end Sys2Proof.Machine
end

section
/-! SUPPORT. What the operations of a digest make of their core's registers, whenever the core completes between them
(44_host_stream.md R221, R222, R226; 20_memory.md R66, R67). -/

namespace Sys2Proof.Machine

/-! ### Waiting -/

@[simp] theorem regsAfterTurn_busy (u : CoreId) (c : CoreRegs (stateLen u)) : (regsAfterTurn u c).busy = false := by
  unfold regsAfterTurn; split
  · rfl
  · rename_i h; simpa using h

@[simp] theorem regsAfterTurn_idle {u : CoreId} {c : CoreRegs (stateLen u)} (hb : c.busy = false) :
    regsAfterTurn u c = c := by simp [regsAfterTurn, hb]

/-- The mask of R92's WAIT picks `BUSY_U` out of the STATUS word. -/
theorem statusWord_and_busyMask (hw : Hw) (u : CoreId) :
    statusWord hw &&& busyMask u = 0 ↔ (hw.core u).busy = false := by
  have hmask : busyMask u = BitVec.twoPow 32 (u.unit - 1) := by cases u <;> rfl
  have hbit : (statusWord hw).getLsbD (u.unit - 1) = (hw.core u).busy := by
    rw [statusWord_getLsbD hw (by cases u <;> decide)]
    cases u <;> rfl
  have hne : BitVec.twoPow 32 (u.unit - 1) ≠ 0 := by cases u <;> decide
  rw [hmask, BitVec.and_twoPow, hbit]
  cases (hw.core u).busy with
  | true => simpa using hne
  | false => simp

/-- A read of the poll of R92's WAIT is its last exactly when the core is idle. -/
theorem poll_ends_iff (s : State) (u : CoreId) :
    readValue s (targetOf statusAddr) &&& busyMask u = 0 ↔ (s.hw.core u).busy = false :=
  statusWord_and_busyMask s.hw u

/-! ### Operations of a digest -/

/-- `CoreRun u ops c c' ws`: the operations `ops`, issued in order with core U's registers at c, leave them at c' and
read the words ws, whether a completion that is due comes before or after the host gets to wait for it. No write or read
meets the busy core, and the words are read after the last wait. -/
inductive CoreRun (u : CoreId) : List HostOp → CoreRegs (stateLen u) → CoreRegs (stateLen u) → List Word → Prop where
  | nil (c : CoreRegs (stateLen u)) : CoreRun u [] c c []
  | wait {ops : List HostOp} {c c' : CoreRegs (stateLen u)} {ws : List Word}
      (h : CoreRun u ops (regsAfterTurn u c) c' ws) : CoreRun u (waitIdle u :: ops) c c' ws
  | write (a : WordAddr) (v : Word) {ops : List HostOp} {c c' : CoreRegs (stateLen u)} {ws : List Word}
      (hb : c.busy = false) (h : CoreRun u ops (regsAfterWrite u a v c) c' ws) :
      CoreRun u (.issue (.write a v) :: ops) c c' ws
  | read (i : Nat) {ops : List HostOp} {c c' : CoreRegs (stateLen u)} {ws : List Word} (hi : i < stateLen u)
      (hb : c.busy = false) (hlast : waitIdle u ∉ ops) (h : CoreRun u ops c c' ws) :
      CoreRun u (.issue (.read (hAddr u i)) :: ops) c c' (c.h.toList.getD i 0 :: ws)

/-- A completion at any moment makes no difference to operations that end with the core idle. -/
theorem CoreRun.turn {u : CoreId} {ops : List HostOp} {c c' : CoreRegs (stateLen u)} {ws : List Word}
    (h : CoreRun u ops c c' ws) (hidle : c'.busy = false) : CoreRun u ops (regsAfterTurn u c) c' ws := by
  cases h with
  | nil => rw [regsAfterTurn_idle hidle]; exact .nil _
  | wait h => exact .wait (by rwa [regsAfterTurn_idle (regsAfterTurn_busy u c)])
  | write a v hb h => rw [regsAfterTurn_idle hb]; exact .write a v hb h
  | read i hi hb hlast h => rw [regsAfterTurn_idle hb]; exact .read i hi hb hlast h

/-- Operations that read nothing, and others after them. -/
theorem CoreRun.append {u : CoreId} {ops ops' : List HostOp} {c c' c'' : CoreRegs (stateLen u)} {ws : List Word}
    (h : CoreRun u ops c c' []) (h' : CoreRun u ops' c' c'' ws) : CoreRun u (ops ++ ops') c c'' ws := by
  generalize hnone : ([] : List Word) = noWords at h
  induction h with
  | nil => exact h'
  | wait h ih => exact .wait (ih h' hnone)
  | write a v hb h ih => exact .write a v hb (ih h' hnone)
  | read => cases hnone

/-- Writing a command word of core U to CMD while the core is idle. -/
theorem CoreRun.command {u : CoreId} {i : Instr} {c : CoreRegs (stateLen u)} (hi : i.wellFormed = true)
    (hb : c.busy = false) : CoreRun u [command i] c (regsAfterCommand u i c) [] := by
  have hwrite : regsAfterWrite u cmdAddr (encode i) c = regsAfterCommand u i c := by
    simp [regsAfterWrite, hb, decode_encode hi]
  exact .write cmdAddr (encode i) hb (hwrite ▸ .nil _)

theorem CoreRun.issueInit {u : CoreId} {c : CoreRegs (stateLen u)} (hb : c.busy = false) :
    CoreRun u [Machine.command (initInstr u)] c { c with h := iv u } [] := by
  rw [← regsAfterCommand_init hb]
  exact CoreRun.command (by cases u <;> rfl) hb

theorem CoreRun.issueCompress {u : CoreId} {c : CoreRegs (stateLen u)} (hb : c.busy = false) :
    CoreRun u [Machine.command (compressInstr u)] c { c with busy := true } [] := by
  rw [← regsAfterCommand_compress hb]
  exact CoreRun.command (by cases u <;> rfl) hb

/-! ### Feeding blocks -/

theorem regsAfterWrite_blk {u : CoreId} {c : CoreRegs (stateLen u)} (hb : c.busy = false) {k : Nat} (hk : k < 16)
    (v : Word) : regsAfterWrite u (blkAddr u k) v c = { c with blk := c.blk.setIfInBounds k v } := by
  simp [regsAfterWrite, hb, targetOf_blkAddr u hk]

/-- Writing words of `BLK_U` one after the other while the core is idle. -/
theorem CoreRun.writeBlks {u : CoreId} (f : Nat → Word) {ks : List Nat} (hks : ∀ k ∈ ks, k < 16)
    {c : CoreRegs (stateLen u)} (hb : c.busy = false) :
    CoreRun u (ks.map fun k => .issue (.write (blkAddr u k) (f k))) c
      { c with blk := ks.foldl (fun blk k => blk.setIfInBounds k (f k)) c.blk } [] := by
  induction ks generalizing c with
  | nil => exact .nil c
  | cons k ks ih =>
    refine .write _ _ hb ?_
    rw [regsAfterWrite_blk hb (hks k (by simp))]
    exact ih (c := { c with blk := c.blk.setIfInBounds k (f k) }) (fun j hj => hks j (by simp [hj])) hb

theorem getElem_foldl_setIfInBounds (f : Nat → Word) (n : Nat) (blk : Vector Word 16) {j : Nat} (hj : j < 16) :
    ((List.range n).foldl (fun blk k => blk.setIfInBounds k (f k)) blk)[j] = if j < n then f j else blk[j] := by
  induction n with
  | zero => simp
  | succ n ih =>
    rw [List.range_succ, List.foldl_concat, Vector.getElem_setIfInBounds hj, ih]
    by_cases hn : n = j
    · subst hn; simp
    · rw [if_neg hn]
      exact if_congr (by omega) rfl rfl

/-- All sixteen words written, the buffer holds the block. -/
theorem foldl_setIfInBounds_blockWord (b : List Byte) (blk : Vector Word 16) :
    (List.range 16).foldl (fun blk k => blk.setIfInBounds k (blockWord b k)) blk = blockWords b := by
  refine Vector.ext fun j hj => ?_
  rw [getElem_foldl_setIfInBounds _ _ _ hj, if_pos hj]
  have hword := getElem?_blockWords b hj
  rw [Vector.getElem?_toList, Vector.getElem?_eq_getElem hj] at hword
  exact (Option.some.inj hword).symm

/-- R222: the block is in the buffer and its compression issued, on the state vector that was waited for. -/
theorem CoreRun.feedBlock (u : CoreId) (b : List Byte) (c : CoreRegs (stateLen u)) :
    CoreRun u (feedBlock u b) c { h := (regsAfterTurn u c).h, blk := blockWords b, busy := true } [] := by
  have hb := regsAfterTurn_busy u c
  have hwrites := CoreRun.writeBlks (blockWord b) (ks := List.range 16) (by simp) hb
  rw [foldl_setIfInBounds_blockWord] at hwrites
  exact .wait (hwrites.append (CoreRun.issueCompress hb))

/-- The state vector after the blocks bs, starting from h (R231). -/
def compressAll (u : CoreId) (h : Vector Word (stateLen u)) (bs : List (List Byte)) : Vector Word (stateLen u) :=
  bs.foldl (fun h b => compress u h (blockWords b)) h

/-- Once the last of the blocks is compressed, `H_U` is that of all the blocks in order. -/
theorem CoreRun.feedBlocks (u : CoreId) (bs : List (List Byte)) (c : CoreRegs (stateLen u)) :
    ∃ c', CoreRun u (bs.flatMap (Machine.feedBlock u)) c c' [] ∧
      (regsAfterTurn u c').h = compressAll u (regsAfterTurn u c).h bs := by
  induction bs generalizing c with
  | nil => exact ⟨c, .nil c, rfl⟩
  | cons b bs ih =>
    obtain ⟨c', hrun, hh⟩ := ih { h := (regsAfterTurn u c).h, blk := blockWords b, busy := true }
    exact ⟨c', (CoreRun.feedBlock u b c).append hrun, hh⟩

/-! ### The whole digest -/

/-- R221: whatever the core held, it is idle with `H_U = IV_U`. -/
theorem CoreRun.beginDigest (u : CoreId) (c : CoreRegs (stateLen u)) :
    CoreRun u (beginDigest u).2 c { regsAfterTurn u c with h := iv u } [] :=
  .wait (CoreRun.issueInit (regsAfterTurn_busy u c))

/-- Reading words of `H_U` one after the other while the core is idle. -/
theorem CoreRun.readHs {u : CoreId} {is : List Nat} (his : ∀ i ∈ is, i < stateLen u) {c : CoreRegs (stateLen u)}
    (hb : c.busy = false) :
    CoreRun u (is.map fun i => .issue (.read (hAddr u i))) c c (is.map fun i => c.h.toList.getD i 0) := by
  induction is with
  | nil => exact .nil c
  | cons i is ih =>
    exact .read i (his i (by simp)) hb (by simp [waitIdle]) (ih fun j hj => his j (by simp [hj]))

theorem map_getD_range (l : List Word) : (List.range l.length).map (fun i => l.getD i 0) = l :=
  List.ext_getElem (by simp) fun i h _ => by
    rw [List.getElem_map, List.getElem_range, List.getD_eq_getElem]

/-- R226: once the core is idle, the words read are those of `H_U`. -/
theorem CoreRun.readState (u : CoreId) (c : CoreRegs (stateLen u)) :
    CoreRun u (readState u) c (regsAfterTurn u c) (regsAfterTurn u c).h.toList := by
  have hreads := CoreRun.readHs (u := u) (is := List.range (stateLen u)) (by simp) (regsAfterTurn_busy u c)
  have hwords := map_getD_range (regsAfterTurn u c).h.toList
  rw [Vector.length_toList] at hwords
  rw [hwords] at hreads
  exact .wait hreads

/-- R231: from any registers, a digest run ends with the core idle, the digest's state vector in `H_U`, and its words
read. -/
theorem CoreRun.digest (u : CoreId) (m : List Byte) (c : CoreRegs (stateLen u)) :
    ∃ c', c'.busy = false ∧ c'.h = digestState u m ∧ CoreRun u (digestOps u m) c c' (digestState u m).toList := by
  obtain ⟨c', hblocks, hh⟩ := CoreRun.feedBlocks u (blocksOf u m) { regsAfterTurn u c with h := iv u }
  have hstate : (regsAfterTurn u c').h = digestState u m := by
    rw [hh, regsAfterTurn_idle (c := { regsAfterTurn u c with h := iv u }) (regsAfterTurn_busy u c)]
    rfl
  exact ⟨regsAfterTurn u c', regsAfterTurn_busy u c', hstate,
    ((CoreRun.beginDigest u c).append hblocks).append (hstate ▸ CoreRun.readState u c')⟩

end Sys2Proof.Machine
end

section
/-! SUPPORT. A digest run interleaved with operations that leave its core alone: what every step keeps
(44_host_stream.md R232, R234). -/

namespace Sys2Proof.Machine

/-! ### Operations of others -/

/-- A transaction that is not core U's leaves its registers alone. -/
theorem regsAfter_foreign {u : CoreId} {tr : Transaction} (h : HostOp.foreign u (.issue tr) = true)
    (c : CoreRegs (stateLen u)) : regsAfter u tr c = c := by
  cases tr with
  | read a => rfl
  | reset => cases h
  | write a v =>
    simp only [HostOp.foreign] at h
    simp only [regsAfter, regsAfterWrite]
    cases ht : targetOf a with
    | cmd =>
      cases hd : decode v with
      | ok i =>
        simp only [ht, hd, decide_eq_true_eq] at h
        simp [regsAfterCommand_other h]
      | error e => simp
    | blk w k =>
      simp only [ht, decide_eq_true_eq] at h
      simp [h]
    | h w i =>
      simp only [ht, decide_eq_true_eq] at h
      simp [h]
    | _ => simp

/-! ### Interleavings -/

/-- Every operation of an interleaving is the next of the one list or of the other. -/
theorem merged_cons {xs ys rest : List HostOp} {op : HostOp} (h : Merged xs ys (op :: rest)) :
    (∃ xs', xs = op :: xs' ∧ Merged xs' ys rest) ∨ (∃ ys', ys = op :: ys' ∧ Merged xs ys' rest) := by
  cases h with
  | left _ xs' _ _ h => exact .inl ⟨xs', rfl, h⟩
  | right _ _ ys' _ h => exact .inr ⟨ys', rfl, h⟩

theorem merged_nil {xs ys : List HostOp} (h : Merged xs ys []) : xs = [] ∧ ys = [] := by
  cases h; exact ⟨rfl, rfl⟩

/-- A list interleaved with nothing. -/
theorem merged_self (xs : List HostOp) : Merged xs [] xs := by
  induction xs with
  | nil => exact .nil
  | cons op xs ih => exact .left op xs [] xs ih

/-! ### The words read -/

/-- The words `got` are among those read, in order, and where there are no others they are the last read. -/
def Gathered (others : List HostOp) (got reads : List Word) : Prop :=
  List.Sublist got reads ∧ (others = [] → got <:+ reads)

theorem Gathered.nil (others : List HostOp) (reads : List Word) : Gathered others [] reads :=
  ⟨List.nil_sublist reads, fun _ => List.nil_suffix⟩

/-- A read of the digest's own. -/
theorem Gathered.own {others : List HostOp} {got reads : List Word} (h : Gathered others got reads) (w : Word) :
    Gathered others (got ++ [w]) (reads ++ [w]) := by
  obtain ⟨hsub, hlast⟩ := h
  refine ⟨hsub.append (.refl _), fun hothers => ?_⟩
  obtain ⟨seen, rfl⟩ := hlast hothers
  exact ⟨seen, by rw [List.append_assoc]⟩

/-- What an operation of another's reads. -/
theorem Gathered.foreign {others : List HostOp} {got reads : List Word} (h : Gathered others got reads)
    {op : HostOp} (hop : op ∈ others) (seen : List Word) : Gathered others got (reads ++ seen) :=
  ⟨h.1.trans (List.sublist_append_left _ _), fun hothers => absurd hop (by simp [hothers])⟩

/-! ### Steps -/

/-- The values a transaction returns to the host. -/
def valuesRead (s : State) : Transaction → List Word
  | .read a => [readValue s (targetOf a)]
  | .write _ _ => []
  | .reset => []

/-- What a step does, as a digest on core U sees it. -/
inductive DigestStep (u : CoreId) (s t : State) : Prop where
  /-- Nothing of the host's program; at most the core completes. -/
  | quiet (hprogram : t.program = s.program) (hreads : t.reads = s.reads)
      (hregs : t.hw.core u = s.hw.core u ∨ t.hw.core u = regsAfterTurn u (s.hw.core u))
  /-- The host's next transaction. -/
  | issue (tr : Transaction) (rest : List HostOp) (hp : s.program = .issue tr :: rest) (hprogram : t.program = rest)
      (hreads : t.reads = s.reads ++ valuesRead s tr) (hregs : t.hw.core u = regsAfter u tr (s.hw.core u))
  /-- One read of the host's poll. -/
  | poll (a : WordAddr) (mask : Word) (rest : List HostOp) (hp : s.program = .waitClr a mask :: rest)
      (hprogram : t.program = if readValue s (targetOf a) &&& mask = 0 then rest else s.program)
      (hreads : t.reads = s.reads ++ [readValue s (targetOf a)]) (hregs : t.hw.core u = s.hw.core u)

theorem step_digestStep {s t : State} (h : step s = .next t) (u : CoreId) : DigestStep u s t := by
  cases step_cases h with
  | ended => exact .quiet rfl rfl (.inl rfl)
  | idle => exact .quiet rfl rfl (.inl rfl)
  | core v =>
    refine .quiet rfl rfl ?_
    rw [coreTurn_hw, popSchedule_hw, complete_core]
    split
    · exact .inr rfl
    · exact .inl rfl
  | write a v rest g hn hp =>
    rw [step_issue hn hp] at h
    exact .issue _ rest hp rfl (List.append_nil _).symm (transact_regs h u)
  | read a rest hn hp => exact .issue _ rest hp rfl rfl rfl
  | reset rest hn hp => exact .issue _ rest hp rfl (List.append_nil _).symm (core_reset u)
  | cleared a mask rest hn hp hm => exact .poll a mask rest hp (if_pos hm).symm rfl rfl
  | polled a mask rest hn hp hm => exact .poll a mask rest hp (if_neg hm).symm rfl rfl

/-! ### What every step keeps -/

/-- The digest in progress: of the host's program the operations `own` are the digest's and the rest others', its words
`got` are read, and `own` will leave core U's registers at `final` with all of `words` read. -/
structure Progress (u : CoreId) (others : List HostOp) (final : CoreRegs (stateLen u)) (words : List Word)
    (own : List HostOp) (got : List Word) (s : State) : Prop where
  merged : ∃ ys, Merged own ys s.program ∧ ys ⊆ others
  run : ∃ ws, CoreRun u own (s.hw.core u) final ws ∧ got ++ ws = words
  gathered : Gathered others got s.reads
  /-- No word is read before the last wait. -/
  waiting : waitIdle u ∈ own → got = []

/-- The digest in progress, wherever it is. -/
def InProgress (u : CoreId) (others : List HostOp) (final : CoreRegs (stateLen u)) (words : List Word) (s : State) :
    Prop := ∃ own got, Progress u others final words own got s

section
variable {u : CoreId} {others : List HostOp} {final : CoreRegs (stateLen u)} {words : List Word} {s t : State}
  {own : List HostOp} {got : List Word}

/-- A step that sees to nothing of the host's program. -/
theorem Progress.quiet (h : Progress u others final words own got s) (hidle : final.busy = false)
    (hprogram : t.program = s.program) (hreads : t.reads = s.reads)
    (hregs : t.hw.core u = s.hw.core u ∨ t.hw.core u = regsAfterTurn u (s.hw.core u)) :
    Progress u others final words own got t := by
  obtain ⟨ws, hrun, hws⟩ := h.run
  refine ⟨hprogram ▸ h.merged, ⟨ws, ?_, hws⟩, hreads ▸ h.gathered, h.waiting⟩
  rcases hregs with hregs | hregs <;> rw [hregs]
  · exact hrun
  · exact hrun.turn hidle

/-- An operation of another's, or one read of its poll. -/
theorem Progress.foreign (h : Progress u others final words own got s) {op : HostOp} (hop : op ∈ others)
    (hmerged : ∃ ys, Merged own ys t.program ∧ ys ⊆ others) {seen : List Word} (hreads : t.reads = s.reads ++ seen)
    (hregs : t.hw.core u = s.hw.core u) : Progress u others final words own got t :=
  ⟨hmerged, hregs ▸ h.run, hreads ▸ h.gathered.foreign hop seen, h.waiting⟩

/-- The digest's own transaction. -/
theorem Progress.issue {tr : Transaction} (h : Progress u others final words (.issue tr :: own) got s)
    (hmerged : ∃ ys, Merged own ys t.program ∧ ys ⊆ others) (hreads : t.reads = s.reads ++ valuesRead s tr)
    (hregs : t.hw.core u = regsAfter u tr (s.hw.core u)) : InProgress u others final words t := by
  obtain ⟨ws, hrun, hws⟩ := h.run
  cases hrun with
  | write a v hb hrun =>
    refine ⟨own, got, hmerged, ⟨ws, hregs ▸ hrun, hws⟩, ?_, fun hmem => h.waiting (.tail _ hmem)⟩
    rw [hreads, valuesRead, List.append_nil]
    exact h.gathered
  | @read i _ _ _ ws hi hb hlast hrun =>
    have hvalue : valuesRead s (.read (hAddr u i)) = [(s.hw.core u).h.toList.getD i 0] := by
      rw [valuesRead, targetOf_hAddr u hi, readValue_register (t := .h u i) hb]
      rfl
    refine ⟨own, got ++ [(s.hw.core u).h.toList.getD i 0], hmerged, ⟨ws, hregs ▸ hrun, ?_⟩, ?_,
      fun hmem => absurd hmem hlast⟩
    · rw [← hws, List.append_assoc, List.singleton_append]
    · rw [hreads, hvalue]
      exact h.gathered.own _

/-- The digest polls for its core's busy bit alone. -/
theorem Progress.poll_eq {a : WordAddr} {mask : Word}
    (h : Progress u others final words (.waitClr a mask :: own) got s) : a = statusAddr ∧ mask = busyMask u := by
  obtain ⟨ws, hrun, -⟩ := h.run
  cases hrun with
  | wait => exact ⟨rfl, rfl⟩

/-- One read of the digest's own poll: it goes on exactly when the core is idle. -/
theorem Progress.poll {rest : List HostOp} (h : Progress u others final words (waitIdle u :: own) got s)
    (hmerged : ∃ ys, Merged own ys rest ∧ ys ⊆ others)
    (hprogram : t.program = if readValue s (targetOf statusAddr) &&& busyMask u = 0 then rest else s.program)
    (hregs : t.hw.core u = s.hw.core u) : InProgress u others final words t := by
  have hgot : got = [] := h.waiting (.head _)
  have hgathered : Gathered others got t.reads := hgot ▸ .nil _ _
  by_cases hidle : (s.hw.core u).busy = false
  · obtain ⟨ws, hrun, hws⟩ := h.run
    rw [if_pos ((poll_ends_iff s u).2 hidle)] at hprogram
    have hrest : CoreRun u own (s.hw.core u) final ws := by
      cases hrun with
      | wait hrun => rwa [regsAfterTurn_idle hidle] at hrun
    exact ⟨own, got, hprogram ▸ hmerged, ⟨ws, hregs ▸ hrest, hws⟩, hgathered, fun _ => hgot⟩
  · rw [if_neg (mt (poll_ends_iff s u).1 hidle)] at hprogram
    exact ⟨_, got, hprogram ▸ h.merged, hregs ▸ h.run, hgathered, fun _ => hgot⟩

/-- Every step keeps a digest in progress, where the others leave its core alone. -/
theorem InProgress.step (hforeign : ∀ op ∈ others, op.foreign u = true) (hidle : final.busy = false)
    (h : InProgress u others final words s) (hst : step s = .next t) : InProgress u others final words t := by
  obtain ⟨own, got, h⟩ := h
  obtain ⟨ys, hmerged, hys⟩ := h.merged
  cases step_digestStep hst u with
  | quiet hprogram hreads hregs => exact ⟨own, got, h.quiet hidle hprogram hreads hregs⟩
  | issue tr rest hp hprogram hreads hregs =>
    rw [hp] at hmerged
    rcases merged_cons hmerged with ⟨own', rfl, hrest⟩ | ⟨ys', rfl, hrest⟩
    · exact h.issue ⟨ys, hprogram ▸ hrest, hys⟩ hreads hregs
    · obtain ⟨hop, hys'⟩ := List.cons_subset.1 hys
      exact ⟨own, got, h.foreign hop ⟨ys', hprogram ▸ hrest, hys'⟩ hreads
        (hregs.trans (regsAfter_foreign (hforeign _ hop) _))⟩
  | poll a mask rest hp hprogram hreads hregs =>
    rw [hp] at hmerged
    rcases merged_cons hmerged with ⟨own', rfl, hrest⟩ | ⟨ys', rfl, hrest⟩
    · obtain ⟨rfl, rfl⟩ := h.poll_eq
      exact h.poll ⟨ys, hrest, hys⟩ hprogram hregs
    · obtain ⟨hop, hys'⟩ := List.cons_subset.1 hys
      refine ⟨own, got, h.foreign hop ?_ hreads hregs⟩
      rw [hprogram]
      split
      · exact ⟨ys', hrest, hys'⟩
      · exact h.merged

theorem InProgress.reaches (hforeign : ∀ op ∈ others, op.foreign u = true) (hidle : final.busy = false) {n : Nat}
    (h : InProgress u others final words s) (hst : Reaches n s t) : InProgress u others final words t := by
  induction n generalizing s with
  | zero => rwa [reaches_zero.1 hst]
  | succ n ih =>
    obtain ⟨r, hr, hrt⟩ := reaches_succ.1 hst
    exact ih (h.step hforeign hidle hr) hrt

/-- With the host's program used up, the core's registers are the final ones and all the words are read. -/
theorem InProgress.ended (h : InProgress u others final words t) (hp : t.program = []) :
    t.hw.core u = final ∧ Gathered others words t.reads := by
  obtain ⟨own, got, h⟩ := h
  obtain ⟨ys, hmerged, -⟩ := h.merged
  obtain ⟨ws, hrun, hws⟩ := h.run
  obtain ⟨rfl, -⟩ := merged_nil (hp ▸ hmerged)
  cases hrun with
  | nil => exact ⟨rfl, by rw [← hws, List.append_nil]; exact h.gathered⟩

end

/-- R232, R234: a digest run, interleaved with operations that leave its core alone, ends with the digest's state vector
in the idle core and its words read. -/
theorem digestRun_ended {u : CoreId} {chunks : List (List Byte)} {c : DigestCtx} {ops others : List HostOp}
    {s t : State} {n : Nat} (hrun : digestRun u chunks = .ok (c, ops)) (hforeign : ∀ op ∈ others, op.foreign u = true)
    (hmerged : Merged ops others s.program) (hst : Reaches n s t) (hp : t.program = []) :
    (t.hw.core u).h = digestState u chunks.flatten ∧ (t.hw.core u).busy = false ∧
      Gathered others (digestState u chunks.flatten).toList t.reads := by
  rw [digestRun_ops hrun] at hmerged
  obtain ⟨final, hidle, hfinal, hcore⟩ := CoreRun.digest u chunks.flatten (s.hw.core u)
  have hstart : InProgress u others final (digestState u chunks.flatten).toList s :=
    ⟨_, [], ⟨others, hmerged, List.Subset.refl _⟩, ⟨_, hcore, rfl⟩, .nil _ _, fun _ => rfl⟩
  obtain ⟨hregs, hgathered⟩ := (hstart.reaches hforeign hidle hst).ended hp
  exact ⟨hregs ▸ hfinal, hregs ▸ hidle, hgathered⟩

end Sys2Proof.Machine
end

section
/-! CERTIFICATES. The statements about the host's duties (44_host_stream.md). -/

namespace Sys2Proof.Machine

/-- Settles O55: cutting blocks goes on, chunk by chunk, where it stopped. -/
theorem chunkBoundariesDoNotMatter : Obligations.ChunkBoundariesDoNotMatter := fun _ _ =>
  ⟨digestRun_tooLong, fun hlong => ⟨_, digestRun_ok hlong, rfl, length_wholeBlocks_tail _, rfl⟩⟩

/-- Settles O58: the digest run interleaved with nothing, so that its words are the last read. -/
theorem theHostProtocolComputesTheDigest : Obligations.TheHostProtocolComputesTheDigest := by
  intro u chunks c ops s t n hrun hops hst hp
  obtain ⟨hh, hidle, -, hlast⟩ := digestRun_ended hrun (others := []) (by simp) (hops ▸ merged_self ops) hst hp
  obtain ⟨seen, hreads⟩ := hlast rfl
  exact ⟨hh, hidle, seen, _, hreads.symm, Vector.length_toList, rfl⟩

/-- Settles O59: every step keeps the digest in progress. -/
theorem interleavedWorkDoesNotDisturbADigest : Obligations.InterleavedWorkDoesNotDisturbADigest := by
  intro u chunks c ops others s t n hrun hforeign hmerged hst hp
  obtain ⟨hh, hidle, hsub, -⟩ := digestRun_ended hrun hforeign hmerged hst hp
  exact ⟨hh, hidle, hsub⟩

/-- Settles O54: the zeros that follow the 0x80 byte are counted, and the length field is read byte by byte. -/
theorem paddingMakesOneOrTwoBlocks : Obligations.PaddingMakesOneOrTwoBlocks := by
  intro u tail total h
  refine ⟨?_, _, _, pad_eq u h total, fun z hz => List.eq_of_mem_replicate hz, length_lengthField u total,
    fun j hj => getElem?_lengthField u total hj⟩
  simp only [pad_eq u h, List.length_append, List.length_singleton, List.length_replicate, length_lengthField,
    zeroCount]
  split <;> omega

/-- Settles O57: eight characters a word of the state vector. -/
theorem digestsHaveTheirFixedLength : Obligations.DigestsHaveTheirFixedLength := by
  have hlength (u : CoreId) (m : List Byte) : (digest u m).length = 8 * stateLen u := by
    rw [digest, length_format, Vector.length_toList]
  exact fun m => ⟨hlength .md5 m, hlength .sha1 m, hlength .sha256 m⟩

/-- Settles O56: neither closed phase takes input. -/
theorem hostMisuseFailsFast : Obligations.HostMisuseFailsFast := by
  intro c chunk hphase
  have hclosed : c.phase.takesInput = false := by rcases hphase with h | h <;> rw [h] <;> rfl
  exact ⟨update_closed hclosed chunk, finalize_closed hclosed⟩

end Sys2Proof.Machine
end

section
/-! SUPPORT. The table of R251 read against the machine's own decoders: which words are legal, and what stands at an
offset of a core's page (60_exceptions.md R251, R253). -/

namespace Sys2Proof

open Laws.EncodeFields (unitOf)

/-! ### The command word -/

/-- R85's test, field by field, accepts the words that decode. -/
theorem legal_iff {v : Word} : legal v = true ↔ ∃ i, decode v = .ok i := by
  rw [decode_isOk]
  simp only [legal, LegalUnitOp, unitField, opField, rsvField, amtField, Bool.and_eq_true, Bool.or_eq_true,
    beq_iff_eq, ← BitVec.toNat_inj, and_assoc, or_assoc]
  rfl

theorem unitField_of_decode {v : Word} {i : Instr} (h : decode v = .ok i) : unitField v = unitOf i := by
  obtain ⟨hunit, -⟩ := encode_fields i (wellFormed_of_decode h)
  rw [← encode_of_decode h, hunit]

end Sys2Proof

namespace Sys2Proof.Machine

open Laws.EncodeFields (unitOf)

theorem offence_illegal {v : Word} (h : ∀ i, decode v ≠ .ok i) (hw : Hw) :
    offence hw (.write 0 v) = some .illegalCmd := by
  have hlegal : legal v = false := by
    rw [← Bool.not_eq_true, legal_iff]; exact fun ⟨i, hi⟩ => h i hi
  exact if_pos hlegal

/-- A legal word offends exactly when the core it is for is busy. -/
theorem offence_command {v : Word} {i : Instr} (h : decode v = .ok i) (hw : Hw) :
    offence hw (.write 0 v) = if (commandCore i).any hw.busy then some .cmdWhileBusy else none := by
  have hunit : v.extractLsb' 28 4 = unitOf i := unitField_of_decode h
  rw [offence, if_pos (show offsetOf 0 = 0 from rfl), if_neg (by simp [legal_iff.2 ⟨i, h⟩]), hunit]
  refine if_congr ?_ rfl rfl
  cases i <;> simp [commandCore, unitOf, busy_eq]

/-! ### The offset -/

theorem pageOf_blk {a : WordAddr} {u : CoreId} {k : Nat} (h : targetOf a = .blk u k) :
    pageOf (offsetOf a) = some (u, k) := by
  obtain ⟨hk, rfl⟩ := targetOf_eq_blk h
  clear h; revert k; cases u <;> decide

/-- The words of `H_U` follow the sixteen of `BLK_U`. -/
theorem pageOf_h {a : WordAddr} {u : CoreId} {i : Nat} (h : targetOf a = .h u i) :
    pageOf (offsetOf a) = some (u, 16 + i) := by
  obtain ⟨hi, rfl⟩ := targetOf_eq_h h
  clear h; revert i; cases u <;> decide

theorem le_of_pageOf {off : Nat} {p : CoreId × Nat} (h : pageOf off = some p) : 0x100 ≤ off := by
  unfold pageOf at h
  split_ifs at h <;> omega

/-- A write to a register of core U offends exactly when the core is busy. -/
theorem offence_ownPage {a : WordAddr} {u : CoreId} {w : Nat} (hpage : pageOf (offsetOf a) = some (u, w))
    (hlt : w < 16 + stateLen u) (hw : Hw) (v : Word) :
    offence hw (.write a v) = if (hw.core u).busy then some .writeWhileBusy else none := by
  have hle := le_of_pageOf hpage
  rw [offence, if_neg (by omega), if_neg (by omega), hpage]
  exact if_neg (by omega)

/-- An unmapped offset lies past the low registers, and in no core's page or past that core's state vector. -/
theorem offset_of_unmapped : ∀ a : WordAddr, targetOf a = .unmapped →
    0x00C < offsetOf a ∧ (pageOf (offsetOf a)).all (fun p => 16 + stateLen p.1 ≤ p.2) = true := by decide

theorem offence_unmapped {a : WordAddr} (h : targetOf a = .unmapped) (hw : Hw) (v : Word) :
    offence hw (.write a v) = some .badWrite := by
  obtain ⟨hlow, hpage⟩ := offset_of_unmapped a h
  rw [offence, if_neg (by omega), if_neg (by omega)]
  cases hp : pageOf (offsetOf a) with
  | none => rfl
  | some p =>
    rw [hp] at hpage
    exact if_pos (of_decide_eq_true hpage)

/-- The offsets of core U's page past `H_U` name no register. -/
theorem targetOf_past_state (u : CoreId) : ∀ a : WordAddr, u.unit * 0x100 + 0x40 + 4 * stateLen u ≤ offsetOf a →
    offsetOf a < (u.unit + 1) * 0x100 → targetOf a = .unmapped := by
  cases u <;> decide

end Sys2Proof.Machine
end

section
/-! SUPPORT. What a transaction does to the error record, and the invariant that ERR and ECAUSE belong together
(60_exceptions.md R250 to R252). -/

namespace Sys2Proof.Machine

/-! ### A transaction -/

/-- What a transaction does to the error record, by the cause R251 gives it. -/
inductive ErrorEffect (tr : Transaction) (s : State) : Option ErrorCause → State → Prop where
  /-- An offending transaction is dropped and its cause recorded. -/
  | raised (c : ErrorCause) : ErrorEffect tr s (some c) (raiseError c s)
  /-- Any other leaves the record. -/
  | kept (t : State) (herr : t.hw.err = s.hw.err) (hcause : t.hw.ecause = s.hw.ecause) : ErrorEffect tr s none t
  /-- Reset and a STATUS write with bit 8 clear it. -/
  | cleared (t : State) (herr : t.hw.err = false) (hcause : t.hw.ecause = 0)
      (hclear : tr = .reset ∨ ∃ v, tr = .write 1 v ∧ v.getLsbD 8 = true) : ErrorEffect tr s none t

theorem unlessBusy_errorEffect (tr : Transaction) (u : CoreId) (c : ErrorCause)
    (f : CoreRegs (stateLen u) → CoreRegs (stateLen u)) (s : State) :
    ErrorEffect tr s (if (s.hw.core u).busy then some c else none) (unlessBusy u c f s) := by
  rcases unlessBusy_cases u c f s with ⟨hb, h⟩ | ⟨hb, h⟩ <;> rw [hb, h]
  · exact .raised c
  · exact .kept _ (by simp) (by simp)

theorem exec_errorEffect (tr : Transaction) (i : Instr) (s : State) :
    ∃ t, exec i s = .next t ∧
      ErrorEffect tr s (if (commandCore i).any s.hw.busy then some .cmdWhileBusy else none) t := by
  obtain ⟨g, hg, he⟩ := exec_effect i s
  refine ⟨_, hg, ?_⟩
  cases he with
  | rot w hi => rw [hi]; exact .kept _ rfl rfl
  | busy u hi hb => rw [hi, Option.any_some, busy_eq, hb]; exact .raised _
  | init u hi hb =>
    rw [hi, commandCore_initInstr, Option.any_some, busy_eq, hb]; exact .kept _ (by simp) (by simp)
  | issue u hi hb =>
    rw [hi, commandCore_compressInstr, Option.any_some, busy_eq, hb]; exact .kept _ (by simp) (by simp)

theorem busWrite_errorEffect (a : WordAddr) (v : Word) (s : State) :
    ∃ t, busWrite a v s = .next t ∧ ErrorEffect (.write a v) s (offence s.hw (.write a v)) t := by
  cases ht : targetOf a with
  | cmd =>
    obtain rfl := targetOf_eq_cmd ht
    rw [busWrite_cmd ht]
    cases hd : decode v with
    | ok i => rw [runCommand_ok hd, offence_command hd]; exact exec_errorEffect _ i s
    | error e =>
      have hillegal : ∀ i, decode v ≠ .ok i := by simp [hd]
      rw [runCommand_illegal hillegal, offence_illegal hillegal]
      exact ⟨_, rfl, .raised _⟩
  | status =>
    obtain rfl := targetOf_eq_status ht
    refine ⟨_, busWrite_status ht v s, ?_⟩
    cases hv : v.getLsbD 8 with
    | true => rw [writeStatus, hv]; exact .cleared _ rfl rfl (.inr ⟨v, rfl, hv⟩)
    | false => rw [writeStatus, hv]; exact .kept _ rfl rfl
  | rotA => obtain rfl := targetOf_eq_rotA ht; exact ⟨_, busWrite_rotA ht v s, .kept _ rfl rfl⟩
  | rotB => obtain rfl := targetOf_eq_rotB ht; exact ⟨_, busWrite_rotB ht v s, .kept _ rfl rfl⟩
  | rotRes => obtain rfl := targetOf_eq_rotRes ht; exact ⟨_, busWrite_rotRes ht v s, .raised _⟩
  | unmapped => rw [offence_unmapped ht]; exact ⟨_, busWrite_unmapped ht v s, .raised _⟩
  | blk u k =>
    obtain ⟨hk, -⟩ := targetOf_eq_blk ht
    rw [offence_ownPage (pageOf_blk ht) (by omega)]
    exact ⟨_, busWrite_blk ht v s, unlessBusy_errorEffect _ u _ _ s⟩
  | h u i =>
    obtain ⟨hi, -⟩ := targetOf_eq_h ht
    rw [offence_ownPage (pageOf_h ht) (by omega)]
    exact ⟨_, busWrite_h ht v s, unlessBusy_errorEffect _ u _ _ s⟩

/-- Every transaction goes on, and does to the error record what R251 says. -/
theorem transact_errorEffect (tr : Transaction) (s : State) :
    ∃ t, transact tr s = .next t ∧ ErrorEffect tr s (offence s.hw tr) t := by
  cases tr with
  | write a v => exact busWrite_errorEffect a v s
  | read a => exact ⟨_, rfl, .kept _ rfl rfl⟩
  | reset => exact ⟨_, rfl, .cleared _ rfl rfl (.inl rfl)⟩

/-! ### The invariant -/

theorem ErrorCause.code_range (c : ErrorCause) : 1 ≤ c.code.toNat ∧ c.code.toNat ≤ 4 := by cases c <;> decide

/-- The invariant reads the error record alone. -/
theorem causeRecorded_congr {g hw : Hw} (herr : g.err = hw.err) (hcause : g.ecause = hw.ecause) :
    g.causeRecorded ↔ hw.causeRecorded := by rw [Hw.causeRecorded, herr, hcause, Hw.causeRecorded]

theorem causeRecorded_of_clear {hw : Hw} (herr : hw.err = false) (hcause : hw.ecause = 0) : hw.causeRecorded :=
  ⟨fun _ => hcause, by simp [herr]⟩

theorem causeRecorded_raise {hw : Hw} (h : hw.causeRecorded) (c : ErrorCause) : (hw.raise c).causeRecorded := by
  obtain ⟨-, hrange⟩ := h
  refine ⟨by simp, fun _ => ?_⟩
  rw [raise_ecause]
  split
  · exact hrange ‹_›
  · exact c.code_range

theorem ErrorEffect.causeRecorded {tr : Transaction} {s t : State} {o : Option ErrorCause}
    (he : ErrorEffect tr s o t) (h : s.hw.causeRecorded) : t.hw.causeRecorded := by
  cases he with
  | raised c => exact causeRecorded_raise h c
  | kept _ herr hcause => exact (causeRecorded_congr herr hcause).2 h
  | cleared _ herr hcause => exact causeRecorded_of_clear herr hcause

theorem transact_causeRecorded {tr : Transaction} {s t : State} (ht : transact tr s = .next t)
    (h : s.hw.causeRecorded) : t.hw.causeRecorded := by
  obtain ⟨t', ht', he⟩ := transact_errorEffect tr s
  rw [ht] at ht'; cases ht'
  exact he.causeRecorded h

theorem causeRecorded_reset : Hw.reset.causeRecorded := causeRecorded_of_clear rfl rfl

/-! ### A step -/

theorem hwStep_causeRecorded {s : State} {g : Hw} (hg : HwStep s g) (h : s.hw.causeRecorded) : g.causeRecorded := by
  cases hg with
  | kept => exact h
  | turn u => exact (causeRecorded_congr (complete_err u s.hw) (complete_ecause u s.hw)).2 h
  | reset => exact causeRecorded_reset
  | write a v rest t hn hp ht => exact transact_causeRecorded (tr := .write a v) ht h

end Sys2Proof.Machine
end

section
/-! CERTIFICATES. The statements about the errors (60_exceptions.md). -/

namespace Sys2Proof.Machine

/-- Settles O50: an error raised leaves the first cause or one of the four codes, and no other turn sets the record
but to clear it. -/
theorem everyStepKeepsTheCauseRecorded : Obligations.EveryStepKeepsTheCauseRecorded := fun _ _ h hst =>
  hwStep_causeRecorded (step_hw hst) h

/-- Settles O34: the cause R251 gives a transaction decides what it does to the error record. -/
theorem errorsAreRaisedAndRecordedAsTheTableSays : Obligations.ErrorsAreRaisedAndRecordedAsTheTableSays := by
  refine ⟨rfl, rfl, rfl, rfl, fun tr s c hc => ?_, fun tr s t hnone ht => ?_,
    fun u s => ⟨complete_err u s.hw, complete_ecause u s.hw⟩⟩
  · obtain ⟨t, ht, he⟩ := transact_errorEffect tr s
    rw [hc] at he; cases he
    rw [ht, raiseError_eq]
  · obtain ⟨t', ht', he⟩ := transact_errorEffect tr s
    rw [ht] at ht'; cases ht'
    rw [hnone] at he
    cases he with
    | kept _ herr hcause => exact .inl ⟨herr, hcause⟩
    | cleared _ herr hcause hclear => exact .inr ⟨herr, hcause, hclear⟩

/-- Settles O36: neither an illegal word nor an unmapped offset gets as far as the busy state. -/
theorem decodingComesBeforeTheBusyState : Obligations.DecodingComesBeforeTheBusyState := by
  intro u s _ herr
  refine ⟨fun v _ hillegal => ?_, fun off a v hlow hhigh ha => ?_⟩
  · rw [transact_write_illegal hillegal, herr]; rfl
  · obtain rfl := offsetOf_of_wordAddrOf ha
    rw [transact, busWrite_unmapped (targetOf_past_state u a hlow hhigh), raiseError_eq, herr]; rfl

/-- Settles O48, from the cases of a step. -/
theorem everyStepGoesOn : Obligations.EveryStepGoesOn := fun s =>
  let ⟨t, ht, _⟩ := step_effect s; ⟨t, ht⟩

/-- Settles O49: no error is recorded at reset. -/
theorem causeIsRecordedAtReset : Obligations.CauseIsRecordedAtReset := causeRecorded_reset

end Sys2Proof.Machine
end

section
/-! SUPPORT. A run left to itself: the schedule is used up, the busy cores complete, and a host whose polls wait for
busy bits then goes on (70_reset_and_hazards.md R283, R287; log entry 3). -/

namespace Sys2Proof.Machine

/-! ### Used-up schedules -/

/-- Every run goes on until the schedule is used up. -/
theorem reaches_schedule_used_up (s : State) : ∃ t, Reaches s.schedule.length s t ∧ t.schedule = [] := by
  generalize hturns : s.schedule = turns
  induction turns generalizing s with
  | nil => exact ⟨s, reaches_zero.2 rfl, hturns⟩
  | cons a turns ih =>
    obtain ⟨r, hr, -⟩ := step_effect s
    obtain ⟨t, hrt, ht⟩ := ih r (by rw [step_schedule hr, hturns, List.tail_cons])
    exact ⟨t, reaches_succ.2 ⟨r, hr, hrt⟩, ht⟩

/-- With no turn fixed, the first busy core completes. -/
theorem step_firstBusy {s : State} {u : CoreId} (hs : s.schedule = []) (hu : firstBusy s.hw = some u) :
    step s = .next (coreTurn u (popSchedule s)) := by
  simp [step, takeTurn, nextAgent, hs, hu]

/-! ### Quiet states -/

/-- No turn is fixed and no core is busy. -/
def Quiet (s : State) : Prop := s.schedule = [] ∧ ∀ u, (s.hw.core u).busy = false

/-- With no turn fixed, each step completes one of the busy cores us until none is left. -/
theorem reaches_quiet_of_busy {s : State} (hs : s.schedule = []) {us : List CoreId}
    (hbusy : ∀ v, (s.hw.core v).busy = true → v ∈ us) : ∃ k t, k ≤ us.length ∧ Reaches k s t ∧ Quiet t := by
  generalize hn : us.length = n
  induction n generalizing s us with
  | zero =>
    obtain rfl := List.eq_nil_of_length_eq_zero hn
    exact ⟨0, s, le_refl 0, reaches_zero.2 rfl, hs, fun v => by simpa using hbusy v⟩
  | succ n ih =>
    cases hu : firstBusy s.hw with
    | none => exact ⟨0, s, Nat.zero_le _, reaches_zero.2 rfl, hs, firstBusy_none.1 hu⟩
    | some u =>
      have hmem : u ∈ us := hbusy u (firstBusy_some hu)
      have hbusy' (v : CoreId) (hv : ((s.hw.complete u).core v).busy = true) : v ∈ us.erase u := by
        by_cases huv : v = u
        · subst huv; simp at hv
        · rw [complete_core_other _ huv] at hv
          exact (List.mem_erase_of_ne huv).2 (hbusy v hv)
      obtain ⟨k, t, hk, hrun, ht⟩ := ih (s := coreTurn u (popSchedule s)) (congrArg List.tail hs) hbusy'
        (by rw [List.length_erase_of_mem hmem]; omega)
      exact ⟨k + 1, t, by omega, reaches_succ.2 ⟨_, step_firstBusy hs hu, hrun⟩, ht⟩

/-- Every run comes to a quiet state within the turns the schedule lists and the completions of the three cores. -/
theorem reaches_quiet (s : State) : ∃ k t, k ≤ s.schedule.length + 3 ∧ Reaches k s t ∧ Quiet t := by
  obtain ⟨r, hsr, hr⟩ := reaches_schedule_used_up s
  obtain ⟨k, t, hk, hrt, ht⟩ := reaches_quiet_of_busy hr (us := [.md5, .sha1, .sha256])
    (fun v _ => by cases v <;> decide)
  exact ⟨s.schedule.length + k, t, Nat.add_le_add_left hk _, reaches_add hsr hrt, ht⟩

/-- With the host's program used up too, the run has ended and the machine holds its state. -/
theorem Quiet.ended {s : State} (h : Quiet s) (hp : s.program = []) : RunEnded s ∧ step s = .next s := by
  obtain ⟨hs, hidle⟩ := h
  refine ⟨⟨hp, hidle⟩, ?_⟩
  simp [step, takeTurn, nextAgent, hs, firstBusy_none.2 hidle, hp]

/-! ### Polls of busy bits -/

/-- With every core idle, STATUS reads 0 in the busy bits. -/
theorem statusWord_and_busyBits {hw : Hw} (hidle : ∀ u, (hw.core u).busy = false) : statusWord hw &&& 7 = 0 :=
  word_ext fun j hj => by
    have h1 : hw.md5.busy = false := hidle .md5
    have h2 : hw.sha1.busy = false := hidle .sha1
    have h3 : hw.sha256.busy = false := hidle .sha256
    rw [BitVec.getLsbD_and, statusWord_getLsbD hw hj, h1, h2, h3]
    interval_cases j <;> simp

/-- A mask with no bit outside `m` picks nothing out of a word with no bit in `m`. -/
theorem and_eq_zero_of_and_not {w mask m : Word} (hmask : mask &&& ~~~m = 0) (hw : w &&& m = 0) : w &&& mask = 0 :=
  word_ext fun j hj => by
    have hmaskj : (mask.getLsbD j && !m.getLsbD j) = false := by
      simpa [hj] using congrArg (BitVec.getLsbD · j) hmask
    have hwj : (w.getLsbD j && m.getLsbD j) = false := by simpa using congrArg (BitVec.getLsbD · j) hw
    suffices h : (w.getLsbD j && mask.getLsbD j) = false by simpa using h
    cases hm : m.getLsbD j with
    | true => rw [hm, Bool.and_true] at hwj; rw [hwj, Bool.false_and]
    | false => rw [hm, Bool.not_false, Bool.and_true] at hmaskj; rw [hmaskj, Bool.and_false]

theorem PollsOnlyBusy.of_suffix {s t : State} (hs : PollsOnlyBusy s) (h : t.program <:+ s.program) :
    PollsOnlyBusy t := fun op hop => hs op (h.subset hop)

/-! ### The host goes on -/

theorem reaches_program_suffix {n : Nat} {s t : State} (h : Reaches n s t) : t.program <:+ s.program := by
  induction n generalizing s with
  | zero => rw [reaches_zero.1 h]
  | succ n ih =>
    obtain ⟨r, hr, hrt⟩ := reaches_succ.1 h
    exact (ih hrt).trans (step_program_suffix hr)

/-- A transaction leaves what the host has still to do. -/
theorem transact_program (tr : Transaction) (s : State) : ∃ t, transact tr s = .next t ∧ t.program = s.program := by
  cases tr with
  | write a v =>
    obtain ⟨g, hg, -⟩ := busWrite_effect a v s
    exact ⟨_, hg, rfl⟩
  | read a => exact ⟨_, rfl, rfl⟩
  | reset => exact ⟨_, rfl, rfl⟩

/-- In a quiet state the host is done with its next operation in one step, a poll of busy bits included. -/
theorem Quiet.takes_operation {s : State} (h : Quiet s) (hpolls : PollsOnlyBusy s) {op : HostOp} {rest : List HostOp}
    (hp : s.program = op :: rest) : ∃ t, step s = .next t ∧ t.program = rest := by
  obtain ⟨hs, hidle⟩ := h
  have hn := nextAgent_host_of_idle hs hidle hp
  cases op with
  | issue tr => rw [step_issue hn hp]; exact transact_program tr _
  | waitClr a mask =>
    obtain ⟨rfl, hmask⟩ := hpolls (.waitClr a mask) (by simp [hp]) a mask rfl
    exact ⟨_, step_waitClr hn hp, if_pos (and_eq_zero_of_and_not hmask (statusWord_and_busyBits hidle))⟩

/-- From one quiet state to the next the host's program gets shorter, until nothing is left of it. -/
theorem reaches_quiet_end {s : State} (hpolls : PollsOnlyBusy s) :
    ∃ n t, Reaches n s t ∧ Quiet t ∧ t.program = [] := by
  induction hlen : s.program.length using Nat.strong_induction_on generalizing s with
  | _ len ih =>
    obtain ⟨k, q, -, hsq, hq⟩ := reaches_quiet s
    have hsuffix := reaches_program_suffix hsq
    cases hp : q.program with
    | nil => exact ⟨k, q, hsq, hq, hp⟩
    | cons op rest =>
      have hqpolls := hpolls.of_suffix hsuffix
      obtain ⟨r, hr, hrest⟩ := hq.takes_operation hqpolls hp
      have hshorter : r.program.length < len := by
        have hle := hsuffix.length_le
        rw [hp, List.length_cons] at hle
        rw [hrest]; omega
      obtain ⟨n, t, hrt, ht⟩ := ih _ hshorter (hqpolls.of_suffix (step_program_suffix hr)) rfl
      exact ⟨k + (n + 1), t, reaches_add hsq (reaches_succ.2 ⟨r, hr, hrt⟩), ht⟩

end Sys2Proof.Machine
end

section
/-! SUPPORT. A write and the read that follows it, and the state after Reset (70_reset_and_hazards.md R280, R281,
R285). -/

namespace Sys2Proof.Machine

/-! ### A read after a write -/

/-- The read that follows a write shows the value its register then reads as. -/
theorem read_after_write {a : WordAddr} {v : Word} {s t : State} (h : busWrite a v s = .next t)
    (hv : readValue t (targetOf a) = v) :
    ∃ t r, transact (.write a v) s = .next t ∧ transact (.read a) t = .next r ∧ r.reads = s.reads ++ [v] := by
  refine ⟨t, busRead a t, h, rfl, ?_⟩
  obtain ⟨g, hg, -⟩ := busWrite_effect a v s
  rw [h] at hg; cases hg
  rw [busRead, observe, hv]

theorem readValue_writeBlk {u : CoreId} {k : Nat} {s : State} (hk : k < 16) (hb : (s.hw.core u).busy = false)
    (v : Word) : readValue (writeBlk u k v s) (.blk u k) = v := by
  rw [readValue_register rfl, registerWord_blk, writeBlk, unlessBusy_idle hb]
  simp [hk]

theorem readValue_writeH {u : CoreId} {i : Nat} {s : State} (hi : i < stateLen u) (hb : (s.hw.core u).busy = false)
    (v : Word) : readValue (writeH u i v s) (.h u i) = v := by
  rw [writeH, unlessBusy_idle hb, readValue_register (by simpa [readsDraw, busy_eq] using hb), registerWord_h]
  simp [hi]

/-! ### Reset -/

theorem resetHardware_idle (s : State) (u : CoreId) : ((resetHardware s).hw.core u).busy = false := by
  rw [resetHardware, mapHw_hw, core_reset]; rfl

/-- After Reset `H_U` is what INIT loads. -/
theorem resetHardware_h (s : State) (u : CoreId) : ((resetHardware s).hw.core u).h = iv u := by
  rw [resetHardware, mapHw_hw, core_reset]; rfl

/-- The turn of an idle core changes nothing. -/
theorem coreTurn_idle {u : CoreId} {s : State} (hb : (s.hw.core u).busy = false) : coreTurn u s = s := by
  rw [coreTurn, State.mapHw, complete_idle hb]

/-- INIT of an idle core that holds its initial value changes nothing. -/
theorem exec_initInstr_of_iv {u : CoreId} {s : State} (hb : (s.hw.core u).busy = false) (hh : (s.hw.core u).h = iv u) :
    exec (initInstr u) s = .next s := by
  rw [exec_initInstr_idle hb, ← hh, setCore_core]

end Sys2Proof.Machine
end

section
/-! CERTIFICATES. The statements about Reset, the hazards and the end of a run (70_reset_and_hazards.md). -/

namespace Sys2Proof.Machine

/-- Settles O53: quiet states follow one another, each with less of the host's program left. -/
theorem everyRunThatPollsBusyBitsEnds : Obligations.EveryRunThatPollsBusyBitsEnds := by
  intro s hpolls
  obtain ⟨n, t, hrun, hquiet, hp⟩ := reaches_quiet_end hpolls
  exact ⟨n, t, hrun, hquiet.ended hp⟩

/-- Settles O52: the run comes to a quiet state within the bound. -/
theorem aBusyCoreCompletes : Obligations.ABusyCoreCompletes := by
  intro s u _
  obtain ⟨k, t, hk, hrun, -, hidle⟩ := reaches_quiet s
  exact ⟨k, t, hk, hrun, hidle u⟩

/-- Settles O14, target by target. -/
theorem aWriteIsSeenByTheNextRead : Obligations.AWriteIsSeenByTheNextRead := by
  intro a v s htakes
  cases ht : targetOf a with
  | rotA => exact read_after_write (busWrite_rotA ht v s) (by rw [ht]; rfl)
  | rotB => exact read_after_write (busWrite_rotB ht v s) (by rw [ht]; rfl)
  | blk u k =>
    rw [ht] at htakes
    exact read_after_write (busWrite_blk ht v s) (by rw [ht, readValue_writeBlk (targetOf_eq_blk ht).1 htakes])
  | h u i =>
    rw [ht] at htakes
    exact read_after_write (busWrite_h ht v s) (by rw [ht, readValue_writeH (targetOf_eq_h ht).1 htakes])
  | _ => rw [ht] at htakes; exact htakes.elim

/-- Settles O45: after Reset every core is idle and holds its initial value. -/
theorem resetAbandonsEverythingAndEqualsInit : Obligations.ResetAbandonsEverythingAndEqualsInit := fun s =>
  ⟨resetHardware s, rfl, rfl, ⟨rfl, rfl, rfl, rfl⟩, fun u => coreTurn_idle (resetHardware_idle s u),
    fun u => exec_initInstr_of_iv (resetHardware_idle s u) (resetHardware_h s u)⟩

end Sys2Proof.Machine
end
